-- ==== Sys2Proof/Word.lean ====
section
/-! DEFINITION. The widths of the machine's values (spec/00_scope.md R4, R6: all quantities are unsigned). -/

namespace Sys2Proof

/-- A byte: a general register, a timer, a memory cell (XLEN = 8). -/
abbrev Byte := BitVec 8

/-- A 16-bit value: PC, I, a stack entry (ALEN = 16) and an instruction word. -/
abbrev Word := BitVec 16

/-- A 4-bit value: an instruction nibble, a register number, the stack pointer (SPLEN = 4). -/
abbrev Nibble := BitVec 4

/-- The 12-bit address or immediate field `nnn`. -/
abbrev Addr12 := BitVec 12

/-- The number of the flag register VF (FLAGREG = 15). -/
abbrev VF : Nibble := 15#4

/-- A framebuffer column, 0 at the left (WIDTH = 64). -/
abbrev Column := Fin 64

/-- A framebuffer row, 0 at the top (HEIGHT = 32). -/
abbrev RowNo := Fin 32

end Sys2Proof
end

