-- ==== Sys2Proof/Config.lean ====
section
/-! DEFINITION. What is fixed for the machine (spec/00_scope.md table R4) and the three values the spec leaves open (R5). -/

namespace Sys2Proof.Config

/-- MEM_SIZE: bytes of memory, valid addresses 0x000 to 0xFFF. -/
abbrev memSize : Nat := 4096

/-- GLYPH_BYTES: bytes of one font glyph. -/
abbrev glyphBytes : Nat := 5

/-- The size of the font table, NGLYPH * GLYPH_BYTES = 80 bytes at FONT_BASE = 0x000. -/
abbrev fontSize : Nat := 80

/-- PROG_BASE: where a program is loaded, and the reset value of PC. -/
abbrev progBase : Nat := 0x200

/-- PROG_MAX: the largest loadable program in bytes. -/
abbrev progMax : Nat := 3584

/-- `FONT` (R5 (1), R19, decision D17): the byte at offset `k` of the font table, for k below 80. The source never prints
the bytes, so nothing in Lean can evaluate them. DESIGN CHOICE, safe: notes/assumptions/1.md. -/
opaque font : Nat → Byte

/-- `RND` (R5 (2), R131, decision D10): the byte that draw number `k` of a run yields. DESIGN CHOICE: notes/assumptions/2.md. -/
opaque rnd : Nat → Byte

/-- `KEYSEL` (R5 (3), R163, decision D9): the choice that draw number `k` of a run makes, reduced by its reader to one of
the pressed keys. DESIGN CHOICE: notes/assumptions/3.md. -/
opaque keySel : Nat → Nat

end Sys2Proof.Config
end

