-- ==== Sys2Proof/Syntax.lean ====
section
/-! DEFINITION. The 34 instructions, one constructor per row of spec/opcode_table.json (spec/30_encoding.md table R65), in its order. -/

namespace Sys2Proof

/-- An instruction. A field has the width its encoding gives it (R61), and R63 makes every value of every field legal, so
each term is an instruction of the machine. -/
inductive Instr where
  /-- `00E0` CLS (R150). -/
  | cls
  /-- `00EE` RET (R100). -/
  | ret
  /-- `1nnn` JP nnn (R101). -/
  | jp (nnn : Addr12)
  /-- `2nnn` CALL nnn (R102). -/
  | call (nnn : Addr12)
  /-- `3xnn` SE Vx, nn (R103). -/
  | seImm (x : Nibble) (nn : Byte)
  /-- `4xnn` SNE Vx, nn (R104). -/
  | sneImm (x : Nibble) (nn : Byte)
  /-- `5xy0` SE Vx, Vy (R105). -/
  | seReg (x y : Nibble)
  /-- `6xnn` LD Vx, nn (R120). -/
  | ldImm (x : Nibble) (nn : Byte)
  /-- `7xnn` ADD Vx, nn (R121). -/
  | addImm (x : Nibble) (nn : Byte)
  /-- `8xy0` LD Vx, Vy (R122). -/
  | ldReg (x y : Nibble)
  /-- `8xy1` OR Vx, Vy (R123). -/
  | orReg (x y : Nibble)
  /-- `8xy2` AND Vx, Vy (R124). -/
  | andReg (x y : Nibble)
  /-- `8xy3` XOR Vx, Vy (R125). -/
  | xorReg (x y : Nibble)
  /-- `8xy4` ADD Vx, Vy (R126). -/
  | addReg (x y : Nibble)
  /-- `8xy5` SUB Vx, Vy (R127). -/
  | subReg (x y : Nibble)
  /-- `8xy6` SHR Vx (R128); `y` is in the word and ignored by the operation (notes/assumptions/16.md). -/
  | shr (x y : Nibble)
  /-- `8xy7` SUBN Vx, Vy (R129). -/
  | subnReg (x y : Nibble)
  /-- `8xyE` SHL Vx (R130); `y` is in the word and ignored by the operation (notes/assumptions/16.md). -/
  | shl (x y : Nibble)
  /-- `9xy0` SNE Vx, Vy (R106). -/
  | sneReg (x y : Nibble)
  /-- `Annn` LD I, nnn (R140). -/
  | ldI (nnn : Addr12)
  /-- `Bnnn` JP V0, nnn (R107). -/
  | jpV0 (nnn : Addr12)
  /-- `Cxnn` RND Vx, nn (R131). -/
  | rnd (x : Nibble) (nn : Byte)
  /-- `Dxyn` DRW Vx, Vy, n (R151). -/
  | drw (x y n : Nibble)
  /-- `Ex9E` SKP Vx (R160). -/
  | skp (x : Nibble)
  /-- `ExA1` SKNP Vx (R161). -/
  | sknp (x : Nibble)
  /-- `Fx07` LD Vx, DT (R162). -/
  | ldVxDt (x : Nibble)
  /-- `Fx0A` LD Vx, K (R163). -/
  | ldVxK (x : Nibble)
  /-- `Fx15` LD DT, Vx (R164). -/
  | ldDtVx (x : Nibble)
  /-- `Fx18` LD ST, Vx (R165). -/
  | ldStVx (x : Nibble)
  /-- `Fx1E` ADD I, Vx (R141). -/
  | addI (x : Nibble)
  /-- `Fx29` LD F, Vx (R142). -/
  | ldF (x : Nibble)
  /-- `Fx33` LD B, Vx (R143). -/
  | ldB (x : Nibble)
  /-- `Fx55` LD [I], Vx (R144). -/
  | ldMemVx (x : Nibble)
  /-- `Fx65` LD Vx, [I] (R145). -/
  | ldVxMem (x : Nibble)
  deriving DecidableEq, Repr

end Sys2Proof
end

