-- ==== Sys2Proof/WellFormed.lean ====
section
/-! DEFINITION. The two checks of form the spec gives: a word is an instruction word when a row of the opcode map matches it
(spec/30_encoding.md R64, table R65), and a program image may be loaded when it fits (spec/70_reset_and_hazards.md R203). A
term of `Instr` needs no check of its own: its fields have the widths of the encoding and all their values are legal (R63). -/

namespace Sys2Proof

/-- One row of table R65: a word belongs to it when `word &&& mask = value`. -/
structure Row where
  mnemonic : String
  value    : Word
  mask     : Word
  deriving DecidableEq, Repr

/-- Rows `00E0` to `7xnn` of table R65 (formats Z, A, XI, XY). -/
def rows0to7 : List Row := [
  ⟨"CLS",          0x00E0, 0xFFFF⟩,
  ⟨"RET",          0x00EE, 0xFFFF⟩,
  ⟨"JP_nnn",       0x1000, 0xF000⟩,
  ⟨"CALL_nnn",     0x2000, 0xF000⟩,
  ⟨"SE_Vx__nn",    0x3000, 0xF000⟩,
  ⟨"SNE_Vx__nn",   0x4000, 0xF000⟩,
  ⟨"SE_Vx__Vy",    0x5000, 0xF00F⟩,
  ⟨"LD_Vx__nn",    0x6000, 0xF000⟩,
  ⟨"ADD_Vx__nn",   0x7000, 0xF000⟩]

/-- Rows `8xy0` to `8xyE` of table R65 (format XY). -/
def rows8 : List Row := [
  ⟨"LD_Vx__Vy",    0x8000, 0xF00F⟩,
  ⟨"OR_Vx__Vy",    0x8001, 0xF00F⟩,
  ⟨"AND_Vx__Vy",   0x8002, 0xF00F⟩,
  ⟨"XOR_Vx__Vy",   0x8003, 0xF00F⟩,
  ⟨"ADD_Vx__Vy",   0x8004, 0xF00F⟩,
  ⟨"SUB_Vx__Vy",   0x8005, 0xF00F⟩,
  ⟨"SHR_Vx",       0x8006, 0xF00F⟩,
  ⟨"SUBN_Vx__Vy",  0x8007, 0xF00F⟩,
  ⟨"SHL_Vx",       0x800E, 0xF00F⟩]

/-- Rows `9xy0` to `Dxyn` of table R65 (formats XY, A, XI, XYN). -/
def rows9toD : List Row := [
  ⟨"SNE_Vx__Vy",    0x9000, 0xF00F⟩,
  ⟨"LD_I__nnn",     0xA000, 0xF000⟩,
  ⟨"JP_V0__nnn",    0xB000, 0xF000⟩,
  ⟨"RND_Vx__nn",    0xC000, 0xF000⟩,
  ⟨"DRW_Vx__Vy__n", 0xD000, 0xF000⟩]

/-- Rows `Ex9E` to `Fx65` of table R65 (format XS). -/
def rowsEF : List Row := [
  ⟨"SKP_Vx",       0xE09E, 0xF0FF⟩,
  ⟨"SKNP_Vx",      0xE0A1, 0xF0FF⟩,
  ⟨"LD_Vx__DT",    0xF007, 0xF0FF⟩,
  ⟨"LD_Vx__K",     0xF00A, 0xF0FF⟩,
  ⟨"LD_DT__Vx",    0xF015, 0xF0FF⟩,
  ⟨"LD_ST__Vx",    0xF018, 0xF0FF⟩,
  ⟨"ADD_I__Vx",    0xF01E, 0xF0FF⟩,
  ⟨"LD_F__Vx",     0xF029, 0xF0FF⟩,
  ⟨"LD_B__Vx",     0xF033, 0xF0FF⟩,
  ⟨"LD__I___Vx",   0xF055, 0xF0FF⟩,
  ⟨"LD_Vx___I",    0xF065, 0xF0FF⟩]

/-- Table R65: the opcode map, 34 rows in the order of spec/opcode_table.json. -/
def opcodeTable : List Row := rows0to7 ++ rows8 ++ rows9toD ++ rowsEF

/-- The word `w` matches the row (R64: `w & mask = match`). -/
def Row.matchesWord (r : Row) (w : Word) : Bool := w &&& r.mask == r.value

/-- Check 1: the word is an instruction word, that is some row of table R65 matches it. -/
def wordWellFormed (w : Word) : Bool := opcodeTable.any fun r => r.matchesWord w

/-- Check 2: the program image fits into memory above PROG_BASE (R202, R203). -/
def imageWellFormed (image : List Byte) : Bool := image.length ≤ Config.progMax

/-- The row of table R65 that an instruction belongs to, by the row's mnemonic in spec/opcode_table.json. -/
def Instr.mnemonic : Instr → String
  | .cls => "CLS"
  | .ret => "RET"
  | .jp _ => "JP_nnn"
  | .call _ => "CALL_nnn"
  | .seImm _ _ => "SE_Vx__nn"
  | .sneImm _ _ => "SNE_Vx__nn"
  | .seReg _ _ => "SE_Vx__Vy"
  | .ldImm _ _ => "LD_Vx__nn"
  | .addImm _ _ => "ADD_Vx__nn"
  | .ldReg _ _ => "LD_Vx__Vy"
  | .orReg _ _ => "OR_Vx__Vy"
  | .andReg _ _ => "AND_Vx__Vy"
  | .xorReg _ _ => "XOR_Vx__Vy"
  | .addReg _ _ => "ADD_Vx__Vy"
  | .subReg _ _ => "SUB_Vx__Vy"
  | .shr _ _ => "SHR_Vx"
  | .subnReg _ _ => "SUBN_Vx__Vy"
  | .shl _ _ => "SHL_Vx"
  | .sneReg _ _ => "SNE_Vx__Vy"
  | .ldI _ => "LD_I__nnn"
  | .jpV0 _ => "JP_V0__nnn"
  | .rnd _ _ => "RND_Vx__nn"
  | .drw _ _ _ => "DRW_Vx__Vy__n"
  | .skp _ => "SKP_Vx"
  | .sknp _ => "SKNP_Vx"
  | .ldVxDt _ => "LD_Vx__DT"
  | .ldVxK _ => "LD_Vx__K"
  | .ldDtVx _ => "LD_DT__Vx"
  | .ldStVx _ => "LD_ST__Vx"
  | .addI _ => "ADD_I__Vx"
  | .ldF _ => "LD_F__Vx"
  | .ldB _ => "LD_B__Vx"
  | .ldMemVx _ => "LD__I___Vx"
  | .ldVxMem _ => "LD_Vx___I"

end Sys2Proof
end

