-- ==== Sys2Proof/Decode.lean ====
section
/-! DEFINITION. The decoder (spec/30_encoding.md R61 to R66), total on words and on byte sequences, and the encoder written from
the same table. -/

namespace Sys2Proof

/-- What decoding answers: an instruction, or why there is none. -/
inductive Verdict where
  /-- One of the 34 instructions. -/
  | instr (i : Instr)
  /-- The verdict `Unknown` of R64: no row of table R65 matches the word. -/
  | unknown (w : Word)
  /-- Fewer than two bytes were given: the model's own verdict on byte sequences, never met by a step. -/
  | truncated
  deriving DecidableEq, Repr

/-- `op = w[15:12]` (R61). -/
def fieldOp (w : Word) : Nibble := w.extractLsb' 12 4
/-- `x = w[11:8]` (R61). -/
def fieldX (w : Word) : Nibble := w.extractLsb' 8 4
/-- `y = w[7:4]` (R61). -/
def fieldY (w : Word) : Nibble := w.extractLsb' 4 4
/-- `n = w[3:0]` (R61). -/
def fieldN (w : Word) : Nibble := w.extractLsb' 0 4
/-- `nn = w[7:0]` (R61). -/
def fieldNN (w : Word) : Byte := w.extractLsb' 0 8
/-- `nnn = w[11:0]` (R61). -/
def fieldNNN (w : Word) : Addr12 := w.extractLsb' 0 12

/-- Op 0x0: the whole word decides (R64). -/
def decodeZ (w : Word) : Verdict :=
  if w = 0x00E0 then .instr .cls
  else if w = 0x00EE then .instr .ret
  else .unknown w

/-- Op 0x5: the low nibble must be 0 (R64, R105). -/
def decode5 (w : Word) : Verdict :=
  if fieldN w = 0 then .instr (.seReg (fieldX w) (fieldY w)) else .unknown w

/-- Op 0x9: the low nibble must be 0 (R64, R106). -/
def decode9 (w : Word) : Verdict :=
  if fieldN w = 0 then .instr (.sneReg (fieldX w) (fieldY w)) else .unknown w

/-- Op 0x8: the low nibble selects the operation (R64). -/
def decode8 (w : Word) : Verdict :=
  match (fieldN w).toNat with
  | 0x0 => .instr (.ldReg (fieldX w) (fieldY w))
  | 0x1 => .instr (.orReg (fieldX w) (fieldY w))
  | 0x2 => .instr (.andReg (fieldX w) (fieldY w))
  | 0x3 => .instr (.xorReg (fieldX w) (fieldY w))
  | 0x4 => .instr (.addReg (fieldX w) (fieldY w))
  | 0x5 => .instr (.subReg (fieldX w) (fieldY w))
  | 0x6 => .instr (.shr (fieldX w) (fieldY w))
  | 0x7 => .instr (.subnReg (fieldX w) (fieldY w))
  | 0xE => .instr (.shl (fieldX w) (fieldY w))
  | _ => .unknown w

/-- Op 0xE: the low byte selects the operation (R64). -/
def decodeE (w : Word) : Verdict :=
  if fieldNN w = 0x9E then .instr (.skp (fieldX w))
  else if fieldNN w = 0xA1 then .instr (.sknp (fieldX w))
  else .unknown w

/-- Op 0xF: the low byte selects the operation (R64). -/
def decodeF (w : Word) : Verdict :=
  if fieldNN w = 0x07 then .instr (.ldVxDt (fieldX w))
  else if fieldNN w = 0x0A then .instr (.ldVxK (fieldX w))
  else if fieldNN w = 0x15 then .instr (.ldDtVx (fieldX w))
  else if fieldNN w = 0x18 then .instr (.ldStVx (fieldX w))
  else if fieldNN w = 0x1E then .instr (.addI (fieldX w))
  else if fieldNN w = 0x29 then .instr (.ldF (fieldX w))
  else if fieldNN w = 0x33 then .instr (.ldB (fieldX w))
  else if fieldNN w = 0x55 then .instr (.ldMemVx (fieldX w))
  else if fieldNN w = 0x65 then .instr (.ldVxMem (fieldX w))
  else .unknown w

/-- R64: dispatch on the high nibble, then on the family's own bits. -/
def decode (w : Word) : Verdict :=
  match (fieldOp w).toNat with
  | 0x0 => decodeZ w
  | 0x1 => .instr (.jp (fieldNNN w))
  | 0x2 => .instr (.call (fieldNNN w))
  | 0x3 => .instr (.seImm (fieldX w) (fieldNN w))
  | 0x4 => .instr (.sneImm (fieldX w) (fieldNN w))
  | 0x5 => decode5 w
  | 0x6 => .instr (.ldImm (fieldX w) (fieldNN w))
  | 0x7 => .instr (.addImm (fieldX w) (fieldNN w))
  | 0x8 => decode8 w
  | 0x9 => decode9 w
  | 0xA => .instr (.ldI (fieldNNN w))
  | 0xB => .instr (.jpV0 (fieldNNN w))
  | 0xC => .instr (.rnd (fieldX w) (fieldNN w))
  | 0xD => .instr (.drw (fieldX w) (fieldY w) (fieldN w))
  | 0xE => decodeE w
  | 0xF => decodeF w
  | _ => .unknown w

/-- The instruction word of two bytes, `hi` from PC and `lo` from PC + 1: big-endian (spec/20_memory.md R42). -/
def bigEndian (hi lo : Byte) : Word := hi.setWidth 16 <<< 8 ||| lo.setWidth 16

/-- The byte at the lower address of an instruction word. -/
def highByte (w : Word) : Byte := w.extractLsb' 8 8

/-- The byte at the higher address of an instruction word. -/
def lowByte (w : Word) : Byte := w.extractLsb' 0 8

/-- Decode the first instruction of a byte sequence and give the rest: every instruction takes two bytes (R60). -/
def decodeBytes : List Byte → Verdict × List Byte
  | hi :: lo :: rest => (decode (bigEndian hi lo), rest)
  | _ => (.truncated, [])

/-- The instruction as an `Option`, for the host's table check. -/
def Verdict.toOption : Verdict → Option Instr
  | .instr i => some i
  | _ => none

/-- The low `nbits` bits of a table word as an instruction word; the bits above `nbits` are 0. -/
def tableWord (nbits w : Nat) : Word := BitVec.ofNat 16 (w % 2 ^ nbits)

/-- What the decoder reads from the instruction whose bits, numbered as spec/opcode_table.json numbers them, are `w`. Every
instruction has 16 bits (R60), so a longer row is none of this machine's (notes/assumptions/10.md). -/
def decodeTableWord (nbits w : Nat) : Option Instr :=
  if nbits ≤ 16 then
    (decodeBytes [highByte (tableWord nbits w), lowByte (tableWord nbits w)]).1.toOption
  else none

/-- Format A: `op nnn` (table R62). -/
def encodeA (op : Nibble) (nnn : Addr12) : Word := op.setWidth 16 <<< 12 ||| nnn.setWidth 16
/-- Format XI: `op x nn` (table R62). -/
def encodeXI (op x : Nibble) (nn : Byte) :
    Word := op.setWidth 16 <<< 12 ||| x.setWidth 16 <<< 8 ||| nn.setWidth 16
/-- Formats XY and XYN: `op x y n`, where `n` is the secondary opcode or the row count (table R62). -/
def encodeXYN (op x y n : Nibble) :
    Word := op.setWidth 16 <<< 12 ||| x.setWidth 16 <<< 8 ||| y.setWidth 16 <<< 4 ||| n.setWidth 16

/-- The word of an instruction (tables R62 and R65; format XS is XI with a fixed low byte). -/
def encode : Instr → Word
  | .cls => 0x00E0
  | .ret => 0x00EE
  | .jp nnn => encodeA 0x1 nnn
  | .call nnn => encodeA 0x2 nnn
  | .seImm x nn => encodeXI 0x3 x nn
  | .sneImm x nn => encodeXI 0x4 x nn
  | .seReg x y => encodeXYN 0x5 x y 0x0
  | .ldImm x nn => encodeXI 0x6 x nn
  | .addImm x nn => encodeXI 0x7 x nn
  | .ldReg x y => encodeXYN 0x8 x y 0x0
  | .orReg x y => encodeXYN 0x8 x y 0x1
  | .andReg x y => encodeXYN 0x8 x y 0x2
  | .xorReg x y => encodeXYN 0x8 x y 0x3
  | .addReg x y => encodeXYN 0x8 x y 0x4
  | .subReg x y => encodeXYN 0x8 x y 0x5
  | .shr x y => encodeXYN 0x8 x y 0x6
  | .subnReg x y => encodeXYN 0x8 x y 0x7
  | .shl x y => encodeXYN 0x8 x y 0xE
  | .sneReg x y => encodeXYN 0x9 x y 0x0
  | .ldI nnn => encodeA 0xA nnn
  | .jpV0 nnn => encodeA 0xB nnn
  | .rnd x nn => encodeXI 0xC x nn
  | .drw x y n => encodeXYN 0xD x y n
  | .skp x => encodeXI 0xE x 0x9E
  | .sknp x => encodeXI 0xE x 0xA1
  | .ldVxDt x => encodeXI 0xF x 0x07
  | .ldVxK x => encodeXI 0xF x 0x0A
  | .ldDtVx x => encodeXI 0xF x 0x15
  | .ldStVx x => encodeXI 0xF x 0x18
  | .addI x => encodeXI 0xF x 0x1E
  | .ldF x => encodeXI 0xF x 0x29
  | .ldB x => encodeXI 0xF x 0x33
  | .ldMemVx x => encodeXI 0xF x 0x55
  | .ldVxMem x => encodeXI 0xF x 0x65

/-- The two bytes of an instruction as they lie in memory, lower address first (R60). -/
def encodeBytes (i : Instr) : List Byte := [highByte (encode i), lowByte (encode i)]

end Sys2Proof
end

