-- ==== Sys2Proof/Machine/State.lean ====
section
/-! DEFINITION. The state of the core (spec/10_state.md R10), the faults and reports, and the state after reset (table R27). -/

namespace Sys2Proof.Machine

/-- The causes that STATUS can record (spec/60_exceptions.md table R171). -/
inductive Cause where
  /-- An access outside 0x000 to 0xFFF (R172). -/
  | addressFault
  /-- `Ex9E` or `ExA1` with Vx above 15 (R173). -/
  | keyIndexFault
  /-- A program image that does not fit (R175). -/
  | loadError
  deriving DecidableEq, Repr

/-- STATUS (spec/10_state.md R23). -/
inductive Status where
  | running
  /-- `Faulted(cause, info)`; only `reset` leaves it (R89). -/
  | faulted (cause : Cause) (info : Nat)
  deriving DecidableEq, Repr

/-- A report: a diagnostic that a completed step carries (spec/60_exceptions.md R174). -/
inductive Report where
  /-- The word fetched decodes to no instruction; with the address it was fetched from. -/
  | unknownOpcode (word addr : Word)
  deriving DecidableEq, Repr

/-- The reasons a step stops with a fault. -/
inductive Fault where
  /-- Raised by the fetch when PC is above 0xFFE, and by `Dxyn`, `Fx33`, `Fx55`, `Fx65` when a byte of the transfer lies above
  0xFFF (R172). Safe: the spec makes it a terminal fault and the model stops there. -/
  | addressFault (addr : Nat)
  /-- Raised by `Ex9E` and `ExA1` when Vx is above 15 (R173). Safe: the spec makes it a terminal fault. -/
  | keyIndexFault (index : Nat)
  /-- Raised by `step` in a state whose STATUS is `Faulted`, where the spec says that step is not enabled (R89): a stuck state.
  Safe: no state follows. -/
  | notEnabled
  deriving DecidableEq, Repr

/-- The reasons a step refuses. -/
inductive Refusal where
  /-- Raised by an arm of `exec` whose instruction has no meaning yet; no arm of this model uses it. Safe: the model stops. -/
  | notModelled (mnemonic : String)
  deriving DecidableEq, Repr

/-- The event numbers of table R171; nothing in the machine stores or tests them (decision D21). -/
def Cause.code : Cause → Nat
  | .addressFault => 1
  | .keyIndexFault => 2
  | .loadError => 3

/-- The event number of the report (table R171). -/
def Report.code : Report → Nat
  | .unknownOpcode _ _ => 4

/-- The framebuffer: 32 rows of 64 one-bit cells (spec/10_state.md R20). Bit `x` of row `y` is the cell in column `x`. -/
abbrev Screen := Vector (BitVec 64) 32

/-- Memory: the bytes that differ from what their address reads as at reset, addresses rising (`Memory.wf`). -/
abbrev Memory := List Host.Cell

/-- Everything of spec/10_state.md R10, and two fields of the model's own, `report` and `draws`. -/
structure State where
  /-- V0 to VF (R11); V[15] is the flag VF (R12). -/
  v         : Vector Byte 16
  /-- The index register I (R13). -/
  i         : Word
  /-- The program counter (R14). -/
  pc        : Word
  /-- The call stack, a register file of its own (R15). -/
  stack     : Vector Word 16
  /-- The stack pointer, the index of the next free entry (R16). -/
  sp        : Nibble
  /-- The delay timer (R17). -/
  dt        : Byte
  /-- The sound timer (R18). -/
  st        : Byte
  /-- The 4096 bytes of memory (R19). -/
  mem       : Memory
  /-- The framebuffer (R20). -/
  fb        : Screen
  /-- DRAW_READY (R21). -/
  drawReady : Bool
  /-- The key array, written by the host; true means pressed (R22). -/
  keys      : Vector Bool 16
  /-- STATUS (R23). -/
  status    : Status
  /-- MODEL'S OWN: the report of the last step, an output of it in the spec (R174). DESIGN CHOICE: notes/assumptions/5.md. -/
  report    : Option Report
  /-- MODEL'S OWN: how many free draws have been consumed (spec/00_scope.md R5). DESIGN CHOICE: notes/assumptions/4.md. -/
  draws     : Nat
  deriving DecidableEq, Repr

/-- The state after reset: table R27. Memory lists nothing, since an unlisted address reads its reset contents. The values of
`report` and `draws` are DESIGN CHOICE (notes/assumptions/4.md and 5.md). -/
def State.reset : State where
  v         := Vector.replicate 16 0
  i         := 0
  pc        := 0x200
  stack     := Vector.replicate 16 0
  sp        := 0
  dt        := 0
  st        := 0
  mem       := []
  fb        := Vector.replicate 32 0
  drawReady := false
  keys      := Vector.replicate 16 false
  status    := .running
  report    := none
  draws     := 0

end Sys2Proof.Machine
end

