-- ==== Sys2Proof/Machine/Ops.lean ====
section
/-! DEFINITION. The named operations over memory, registers, stack, timers, keys and screen that the meanings share, the phases
common to all steps, and the taking of a fault. -/

namespace Sys2Proof.Machine

/-! ## Memory (spec/20_memory.md) -/

/-- What an address that memory does not list reads as: its contents after reset (spec/10_state.md R19, spec/20_memory.md table
R47), the font below 0x050 and 0 above. -/
def Memory.unlisted (a : Nat) : Byte :=
  if a < Config.fontSize then Config.font a else 0

/-- `MEM[a]`. -/
def Memory.read : Memory → Nat → Byte
  | [], a => Memory.unlisted a
  | (k, b) :: rest, a => if a = k then b else Memory.read rest a

/-- Memory without an entry for `a`: the address reads its reset contents again. -/
def Memory.erase (m : Memory) (a : Nat) : Memory := m.filter fun c => c.1 ≠ a

/-- Memory with the entry `(a, b)`, in the place that keeps addresses rising. -/
def Memory.insert : Memory → Nat → Byte → Memory
  | [], a, b => [(a, b)]
  | (k, c) :: rest, a, b =>
    if a < k then (a, b) :: (k, c) :: rest
    else if a = k then (a, b) :: rest
    else (k, c) :: Memory.insert rest a b

/-- `MEM[a] <- b`, keeping the canonical form: storing the reset contents removes the entry. -/
def Memory.write (m : Memory) (a : Nat) (b : Byte) : Memory :=
  if b = Memory.unlisted a then m.erase a else m.insert a b

/-- Store bytes at consecutive addresses from `base` upward. -/
def Memory.store : Memory → Nat → List Byte → Memory
  | m, _, [] => m
  | m, base, b :: bs => Memory.store (m.write base b) (base + 1) bs

/-- The addresses of the entries rise strictly. -/
def Memory.rising : Memory → Bool
  | [] => true
  | [_] => true
  | (a, _) :: (b, c) :: rest => decide (a < b) && Memory.rising ((b, c) :: rest)

/-- The canonical form: addresses strictly rising and inside memory, no entry equal to the reset contents of its address. -/
def Memory.wf (m : Memory) : Bool :=
  m.rising && m.all fun c => decide (c.1 < Config.memSize) && decide (c.2 ≠ Memory.unlisted c.1)

/-- `MEM[a]` in a state. -/
def State.read (s : State) (a : Nat) : Byte := s.mem.read a

/-- Replace memory. -/
def State.setMem (m : Memory) (s : State) : State := { s with mem := m }

/-! ## Registers, stack, timers, keys -/

/-- `V[x]` (spec/10_state.md R11: no register is hardwired). -/
def State.reg (s : State) (x : Nibble) : Byte := s.v[x.toNat]'x.isLt

/-- `V[x] <- b`. -/
def State.setReg (x : Nibble) (b : Byte) (s : State) : State :=
  { s with v := s.v.set x.toNat b x.isLt }

/-- Replace the register file. -/
def State.setV (v : Vector Byte 16) (s : State) : State := { s with v := v }

/-- `I <- w`. -/
def State.setI (w : Word) (s : State) : State := { s with i := w }

/-- `DT <- b`. -/
def State.setDt (b : Byte) (s : State) : State := { s with dt := b }

/-- `ST <- b`. -/
def State.setSt (b : Byte) (s : State) : State := { s with st := b }

/-- `STACK[k]`. -/
def State.stackEntry (s : State) (k : Nibble) : Word := s.stack[k.toNat]'k.isLt

/-- `STACK[SP] <- w ; SP <- (SP + 1) mod 16` (spec/10_state.md R16: no overflow is detected). -/
def State.push (w : Word) (s : State) : State :=
  { s with stack := s.stack.set s.sp.toNat w s.sp.isLt, sp := s.sp + 1 }

/-- `SP <- (SP - 1) mod 16` (spec/10_state.md R16: no underflow is detected). The popped entry keeps its value (R15). -/
def State.pop (s : State) : State := { s with sp := s.sp - 1 }

/-- `KEY[k]`. -/
def State.key (s : State) (k : Nibble) : Bool := s.keys[k.toNat]'k.isLt

/-- The sixteen key indices. -/
def keyIndices : List Nibble := [0, 1, 2, 3, 4, 5, 6, 7, 8, 9, 10, 11, 12, 13, 14, 15]

/-- The set S of pressed keys of R163. -/
def State.pressed (s : State) : List Nibble := keyIndices.filter fun k => s.key k

/-- `draw KEYSEL(S)` for the pressed keys `k :: ks`: one of them, and which one nothing says (spec/45_input_timers.md R163,
decision D9). -/
def State.chosenKey (s : State) (k : Nibble) (ks : List Nibble) : Nibble :=
  (k :: ks)[Config.keySel s.draws % (k :: ks).length]'(Nat.mod_lt _ (Nat.succ_pos _))

/-- `draw RND` (spec/42_alu.md R131, decision D10): the byte of this draw, and nothing says which. -/
def State.drawnByte (s : State) : Byte := Config.rnd s.draws

/-- A draw has been consumed; the next one is another (spec/40_step_cycle.md R91). -/
def State.nextDraw (s : State) : State := { s with draws := s.draws + 1 }

/-! ## Screen (spec/10_state.md R20) -/

/-- `FB[x, y]`. -/
def Screen.cell (f : Screen) (x : Column) (y : RowNo) : Bool := (f[y.val]'y.isLt).getLsbD x.val

/-- `FB[x, y] <- FB[x, y] ^ 1`. -/
def Screen.toggle (f : Screen) (x : Column) (y : RowNo) : Screen :=
  f.set y.val ((f[y.val]'y.isLt) ^^^ BitVec.twoPow 64 x.val) y.isLt

/-- All 2048 cells 0. -/
def Screen.clear : Screen := Vector.replicate 32 0

/-- Replace the framebuffer and set DRAW_READY: what both drawing instructions do (spec/10_state.md R21, decision D8). -/
def State.draw (f : Screen) (s : State) : State := { s with fb := f, drawReady := true }

/-! ## The program counter (spec/40_step_cycle.md R86) -/

/-- Absolute: `PC <- target`. -/
def State.jump (target : Word) (s : State) : State := { s with pc := target }

/-- Fall through: `PC <- (pc0 + 2) mod 65536`. -/
def State.fallThrough (s : State) : State := s.jump (s.pc + 2)

/-- A conditional skip: `PC <- (pc0 + 4) mod 65536` when the condition holds, else fall through (R108). -/
def State.skipIf (c : Bool) (s : State) : State := s.jump (if c then s.pc + 4 else s.pc + 2)

/-- Hold: `PC <- pc0`; only `Fx0A` with no key pressed. -/
def State.hold (s : State) : State := s

/-! ## Phases common to all steps (spec/40_step_cycle.md R81 to R84, R87) -/

/-- A timer counts down and stops at 0 (R83). -/
def countDown (b : Byte) : Byte := if b = 0 then 0 else b - 1

/-- Phases (a) and (b): DRAW_READY is cleared and both timers tick (R82, R83); no report is carried yet (R174). -/
def State.beginStep (s : State) : State :=
  { s with drawReady := false, dt := countDown s.dt, st := countDown s.st, report := none }

/-- Phase (c): the big-endian word at PC, if both its bytes lie in memory; any parity of PC (R84, R44). -/
def State.fetchWord (s : State) : Option Word :=
  if s.pc.toNat ≤ 0xFFE then some (bigEndian (s.read s.pc.toNat) (s.read (s.pc.toNat + 1))) else none

/-- Phases (d) and (e) of a word that is no instruction: PC + 2, and the report with the word and its address (R87). -/
def State.reportUnknown (w : Word) (s : State) : State :=
  { s.fallThrough with report := some (.unknownOpcode w s.pc) }

/-! ## Faults (spec/60_exceptions.md R170 to R180) -/

/-- The outcome type of a step. -/
abbrev Result := Host.Outcome State Fault Refusal

/-- `raise`: the step ends with the fault (R88). -/
def raise (f : Fault) : Result := .fault f

/-- What a fault leaves in STATUS: its cause and its info (R171, R179). A step that was not enabled leaves STATUS alone (R89). -/
def Fault.statusAfter : Fault → Status → Status
  | .addressFault a, _ => .faulted .addressFault a
  | .keyIndexFault k, _ => .faulted .keyIndexFault k
  | .notEnabled, old => old

/-- TAKING A FAULT (R88, R179): of the state `s` before the step nothing changes but STATUS, so PC still holds the address of the
instruction that faulted, and the phases (a) and (b) are not kept. A faulting step carries no report. There is no trap entry. -/
def State.takeFault (f : Fault) (s : State) : State :=
  { s with status := f.statusAfter s.status, report := none }

/-- THE RETURN FROM A FAULT is the host's reset and nothing else (R180, R200): every element of table R27. The draw counter runs
on, so that draws after it are not those before it (notes/assumptions/4.md). -/
def State.hostReset (s : State) : State := { State.reset with draws := s.draws }

end Sys2Proof.Machine
end

