-- ==== Sys2Proof/Machine/Operands.lean ====
section
/-! DEFINITION. The operand forms: immediates (spec/30_encoding.md R63), the one data addressing mode `I + k` with its range check
(spec/20_memory.md R41, R55; spec/43_index_memory.md R146), key indices, decimal digits and sprite bits. -/

namespace Sys2Proof.Machine

/-- `zext_16(nnn)` (R63). -/
def addrOperand (nnn : Addr12) : Word := nnn.zeroExtend 16

/-- `zext_16(v)` of a register or immediate byte (R63). -/
def byteOperand (b : Byte) : Word := b.zeroExtend 16

/-- The effective address of byte `k` of a transfer: a natural number, never reduced (R55). -/
def State.effAddr (s : State) (k : Nat) : Nat := s.i.toNat + k

/-- Some byte of a transfer of `len` bytes at I lies above 0xFFF (R172); a transfer of no bytes never does (R151). -/
def State.outOfRange (s : State) (len : Nat) : Bool := decide (0 < len) && decide (0xFFF < s.effAddr (len - 1))

/-- Check the whole transfer of `len` bytes at I before any write, and raise `AddressFault` with the lowest address above 0xFFF
(R46, R172); otherwise the instruction completes in `done`. -/
def State.withTransfer (s : State) (len : Nat) (done : State) : Result :=
  if s.outOfRange len then raise (.addressFault (max s.i.toNat 0x1000)) else .next done

/-- Check a key index before it is used, and raise `KeyIndexFault` when it is above 15 (R173). -/
def State.withKeyIndex (a : Byte) (done : State) : Result :=
  if 15 < a.toNat then raise (.keyIndexFault a.toNat) else .next done

/-- The key index in a byte that is at most 15. -/
def keyOperand (a : Byte) : Nibble := a.setWidth 4

/-- The hundreds, tens and ones digits of a byte (spec/43_index_memory.md R143). -/
def decimalDigits (a : Byte) : List Byte :=
  [BitVec.ofNat 8 (a.toNat / 100), BitVec.ofNat 8 (a.toNat / 10 % 10), BitVec.ofNat 8 (a.toNat % 10)]

/-- V0 to Vx, in ascending order (spec/43_index_memory.md R144). -/
def State.regsUpTo (s : State) (x : Nibble) : List Byte := s.v.toList.take (x.toNat + 1)

/-- `for k from 0 to n - 1: V[k] <- MemRead(i0 + k, 1)` (spec/43_index_memory.md R145). -/
def loadRegs (m : Memory) (i0 : Nat) : Nat → Vector Byte 16 → Vector Byte 16
  | 0, v => v
  | n + 1, v => (loadRegs m i0 n v).setIfInBounds n (m.read (i0 + n))

/-- The column of a sprite pixel, wrapped at the right edge (spec/44_display.md R151). -/
def column (a : Byte) (col : Nat) : Column := Fin.ofNat 64 (a.toNat + col)

/-- The row of a sprite pixel, wrapped at the bottom edge (spec/44_display.md R151). -/
def row (b : Byte) (r : Nat) : RowNo := Fin.ofNat 32 (b.toNat + r)

/-- Bit `7 - col` of a sprite byte: the most significant bit is the leftmost pixel (spec/44_display.md R151). -/
def spriteBit (byte : Byte) (col : Nat) : Bool := byte.getLsbD (7 - col)

end Sys2Proof.Machine
end

