-- ==== Sys2Proof/Machine/Flags.lean ====
section
/-! DEFINITION. The values that VF takes (spec/10_state.md R12) and the order in which a flag and a result are written
(spec/40_step_cycle.md R85, spec/42_alu.md R133). -/

namespace Sys2Proof.Machine

/-- A flag as the byte 1 or 0. -/
def flagByte (c : Bool) : Byte := if c then 1 else 0

/-- The carry of `a + b`: the true sum exceeds 255 (R126). -/
def carry (a b : Byte) : Bool := decide (255 < a.toNat + b.toNat)

/-- The no-borrow of `a - b`: 0 when `b > a`, else 1 (R127, R129). -/
def noBorrow (a b : Byte) : Bool := !decide (a.toNat < b.toNat)

/-- The bit shifted out at the bottom: `a & 1` (R128). -/
def bitOutLow (a : Byte) : Bool := a.getLsbD 0

/-- The bit shifted out at the top: `(a >> 7) & 1` (R130). -/
def bitOutHigh (a : Byte) : Bool := a.getLsbD 7

/-- `V[15] <- flag ; V[x] <- result`: the flag is written first, so that with x = 15 the result stands (R85, R133). -/
def State.setFlagThenReg (f : Bool) (x : Nibble) (r : Byte) (s : State) : State :=
  (s.setReg VF (flagByte f)).setReg x r

end Sys2Proof.Machine
end

