-- ==== Sys2Proof/Machine/Alu.lean ====
section
/-! DEFINITION. Register load, arithmetic, logic, shifts and random (spec/42_alu.md). All 8-bit arithmetic wraps modulo 256
(R132); every instruction here falls through and none can fault. -/

namespace Sys2Proof.Machine

/-- `V[x] <- b`, then fall through: the shape of the instructions without a flag. -/
def State.result (x : Nibble) (b : Byte) (s : State) : Result := .next (s.setReg x b).fallThrough

/-- `V[15] <- flag ; V[x] <- r`, then fall through: the shape of the instructions with a flag (R85). -/
def State.flaggedResult (f : Bool) (x : Nibble) (r : Byte) (s : State) : Result :=
  .next (s.setFlagThenReg f x r).fallThrough

/-- `6xnn` LD Vx, nn (R120). -/
def execLdImm (x : Nibble) (nn : Byte) (s : State) : Result := s.result x nn

/-- `7xnn` ADD Vx, nn (R121): no flag. -/
def execAddImm (x : Nibble) (nn : Byte) (s : State) : Result := s.result x (s.reg x + nn)

/-- `8xy0` LD Vx, Vy (R122). -/
def execLdReg (x y : Nibble) (s : State) : Result := s.result x (s.reg y)

/-- `8xy1` OR Vx, Vy (R123): VF is not written. -/
def execOrReg (x y : Nibble) (s : State) : Result := s.result x (s.reg x ||| s.reg y)

/-- `8xy2` AND Vx, Vy (R124): VF is not written. -/
def execAndReg (x y : Nibble) (s : State) : Result := s.result x (s.reg x &&& s.reg y)

/-- `8xy3` XOR Vx, Vy (R125): VF is not written. -/
def execXorReg (x y : Nibble) (s : State) : Result := s.result x (s.reg x ^^^ s.reg y)

/-- `8xy4` ADD Vx, Vy (R126). -/
def execAddReg (x y : Nibble) (s : State) : Result :=
  s.flaggedResult (carry (s.reg x) (s.reg y)) x (s.reg x + s.reg y)

/-- `8xy5` SUB Vx, Vy (R127). -/
def execSubReg (x y : Nibble) (s : State) : Result :=
  s.flaggedResult (noBorrow (s.reg x) (s.reg y)) x (s.reg x - s.reg y)

/-- `8xy6` SHR Vx (R128): logical, by one; Vy is neither read nor written. -/
def execShr (x _y : Nibble) (s : State) : Result := s.flaggedResult (bitOutLow (s.reg x)) x (s.reg x >>> 1)

/-- `8xy7` SUBN Vx, Vy (R129). -/
def execSubnReg (x y : Nibble) (s : State) : Result :=
  s.flaggedResult (noBorrow (s.reg y) (s.reg x)) x (s.reg y - s.reg x)

/-- `8xyE` SHL Vx (R130): by one; Vy is neither read nor written. -/
def execShl (x _y : Nibble) (s : State) : Result := s.flaggedResult (bitOutHigh (s.reg x)) x (s.reg x <<< 1)

/-- `Cxnn` RND Vx, nn (R131): a fresh draw, masked. -/
def execRnd (x : Nibble) (nn : Byte) (s : State) : Result := s.nextDraw.result x (s.drawnByte &&& nn)

end Sys2Proof.Machine
end

