-- ==== Sys2Proof/Machine/Display.lean ====
section
/-! DEFINITION. The display instructions (spec/44_display.md). -/

namespace Sys2Proof.Machine

/-- What `Dxyn` builds up: the framebuffer, and whether a lit cell was hit. -/
structure Canvas where
  screen : Screen
  hit    : Bool
  deriving DecidableEq, Repr

/-- One sprite bit that is 1, at the cell (x, y): a lit cell is a collision; the cell is toggled (R151). -/
def Canvas.plot (c : Canvas) (x : Column) (y : RowNo) : Canvas where
  screen := c.screen.toggle x y
  hit := c.hit || c.screen.cell x y

/-- One bit of a sprite row: bits that are 0 do nothing (R151). -/
def Canvas.bit (a : Byte) (y : RowNo) (byte : Byte) (c : Canvas) (col : Nat) : Canvas :=
  if spriteBit byte col then c.plot (column a col) y else c

/-- One sprite row: its eight bits, the most significant first (R151). -/
def Canvas.row (a b : Byte) (m : Memory) (i0 : Nat) (c : Canvas) (r : Nat) : Canvas :=
  (List.range 8).foldl (Canvas.bit a (Machine.row b r) (m.read (i0 + r))) c

/-- The `n` rows of a sprite at `i0`, with its upper left corner at (a, b) (R151). -/
def drawSprite (m : Memory) (i0 : Nat) (a b : Byte) (n : Nat) (f : Screen) : Canvas :=
  (List.range n).foldl (Canvas.row a b m i0) ⟨f, false⟩

/-- `00E0` CLS (R150): all cells 0; DRAW_READY is set whatever was lit. -/
def execCls (s : State) : Result := .next (s.draw Screen.clear).fallThrough

/-- The canvas that `Dxyn` leaves: the coordinates are Vx and Vy as they were before the instruction (R151, R85). -/
def State.sprite (s : State) (x y n : Nibble) : Canvas :=
  drawSprite s.mem (s.effAddr 0) (s.reg x) (s.reg y) n.toNat s.fb

/-- `Dxyn` DRW Vx, Vy, n (R151): VF is the collision, DRAW_READY is set always. -/
def execDrw (x y n : Nibble) (s : State) : Result :=
  s.withTransfer n.toNat
    ((s.draw (s.sprite x y n).screen).setReg VF (flagByte (s.sprite x y n).hit)).fallThrough

end Sys2Proof.Machine
end

