-- ==== Sys2Proof/Machine/Flow.lean ====
section
/-! DEFINITION. Control transfer (spec/41_flow.md). A meaning is phases (d) and (e) of a step, on the state after phases (a) and
(b); `s.pc` is `pc0`. -/

namespace Sys2Proof.Machine

/-- `00EE` RET (R100): `SP <- (SP - 1) mod 16 ; pc <- STACK[SP]`. -/
def execRet (s : State) : Result := .next (s.pop.jump (s.pop.stackEntry s.pop.sp))

/-- `1nnn` JP nnn (R101). -/
def execJp (nnn : Addr12) (s : State) : Result := .next (s.jump (addrOperand nnn))

/-- `2nnn` CALL nnn (R102, decision D1): the address of the next instruction is pushed. -/
def execCall (nnn : Addr12) (s : State) : Result := .next ((s.push (s.pc + 2)).jump (addrOperand nnn))

/-- `3xnn` SE Vx, nn (R103). -/
def execSeImm (x : Nibble) (nn : Byte) (s : State) : Result := .next (s.skipIf (s.reg x == nn))

/-- `4xnn` SNE Vx, nn (R104). -/
def execSneImm (x : Nibble) (nn : Byte) (s : State) : Result := .next (s.skipIf (s.reg x != nn))

/-- `5xy0` SE Vx, Vy (R105). -/
def execSeReg (x y : Nibble) (s : State) : Result := .next (s.skipIf (s.reg x == s.reg y))

/-- `9xy0` SNE Vx, Vy (R106). -/
def execSneReg (x y : Nibble) (s : State) : Result := .next (s.skipIf (s.reg x != s.reg y))

/-- `Bnnn` JP V0, nnn (R107): always V0; the sum of 16-bit values cannot wrap. -/
def execJpV0 (nnn : Addr12) (s : State) : Result :=
  .next (s.jump (byteOperand (s.reg 0) + addrOperand nnn))

end Sys2Proof.Machine
end

