-- ==== Sys2Proof/Machine/IndexMemory.lean ====
section
/-! DEFINITION. The index register and the memory transfers (spec/43_index_memory.md). All fall through, none writes VF as a flag,
and a transfer leaves I alone. -/

namespace Sys2Proof.Machine

/-- `Annn` LD I, nnn (R140). -/
def execLdI (nnn : Addr12) (s : State) : Result := .next (s.setI (addrOperand nnn)).fallThrough

/-- `Fx1E` ADD I, Vx (R141): modulo 65536, no flag. -/
def execAddI (x : Nibble) (s : State) : Result := .next (s.setI (s.i + byteOperand (s.reg x))).fallThrough

/-- `Fx29` LD F, Vx (R142): 5 * Vx, for every value of Vx. -/
def execLdF (x : Nibble) (s : State) : Result :=
  .next (s.setI (BitVec.ofNat 16 (Config.glyphBytes * (s.reg x).toNat))).fallThrough

/-- `Fx33` LD B, Vx (R143). -/
def execLdB (x : Nibble) (s : State) : Result :=
  s.withTransfer 3 (s.setMem (s.mem.store (s.effAddr 0) (decimalDigits (s.reg x)))).fallThrough

/-- `Fx55` LD [I], Vx (R144). -/
def execLdMemVx (x : Nibble) (s : State) : Result :=
  s.withTransfer (x.toNat + 1) (s.setMem (s.mem.store (s.effAddr 0) (s.regsUpTo x))).fallThrough

/-- `Fx65` LD Vx, [I] (R145). -/
def execLdVxMem (x : Nibble) (s : State) : Result :=
  s.withTransfer (x.toNat + 1) (s.setV (loadRegs s.mem (s.effAddr 0) (x.toNat + 1) s.v)).fallThrough

end Sys2Proof.Machine
end

