-- ==== Sys2Proof/Machine/KeysTimers.lean ====
section
/-! DEFINITION. Keys and timers (spec/45_input_timers.md). DT and ST are the values after this step's tick. -/

namespace Sys2Proof.Machine

/-- `Ex9E` SKP Vx (R160). -/
def execSkp (x : Nibble) (s : State) : Result :=
  State.withKeyIndex (s.reg x) (s.skipIf (s.key (keyOperand (s.reg x))))

/-- `ExA1` SKNP Vx (R161). -/
def execSknp (x : Nibble) (s : State) : Result :=
  State.withKeyIndex (s.reg x) (s.skipIf (!s.key (keyOperand (s.reg x))))

/-- `Fx07` LD Vx, DT (R162). -/
def execLdVxDt (x : Nibble) (s : State) : Result := .next (s.setReg x s.dt).fallThrough

/-- `Fx0A` LD Vx, K (R163): with no key pressed the step completes with PC held; otherwise Vx receives a pressed key. The draw
is consumed only when two or more are pressed (R91). -/
def execLdVxK (x : Nibble) (s : State) : Result :=
  match s.pressed with
  | [] => .next s.hold
  | [k] => .next (s.setReg x (k.zeroExtend 8)).fallThrough
  | k :: ks => .next (s.nextDraw.setReg x ((s.chosenKey k ks).zeroExtend 8)).fallThrough

/-- `Fx15` LD DT, Vx (R164). -/
def execLdDtVx (x : Nibble) (s : State) : Result := .next (s.setDt (s.reg x)).fallThrough

/-- `Fx18` LD ST, Vx (R165). -/
def execLdStVx (x : Nibble) (s : State) : Result := .next (s.setSt (s.reg x)).fallThrough

end Sys2Proof.Machine
end

