-- ==== Sys2Proof/Machine/Step.lean ====
section
/-! DEFINITION. The step (spec/40_step_cycle.md R80, R92), and placing a word where it fetches. -/

namespace Sys2Proof.Machine

/-- One step (R92). A fault carries its cause and info; the state it leaves is `State.takeFault` of the state before the step
(R88). In a faulted state the step is not enabled (R89). -/
def step (s : State) : Host.Outcome State Fault Refusal :=
  match s.status with
  | .faulted _ _ => raise .notEnabled
  | .running =>
    match s.beginStep.fetchWord with
    | none => raise (.addressFault s.pc.toNat)
    | some w =>
      match decode w with
      | .instr i => exec i s.beginStep
      | .unknown _ => .next (s.beginStep.reportUnknown w)
      | .truncated => .next (s.beginStep.reportUnknown w)

/-- The state with a table word stored, high byte first, where the next step fetches its instruction. Where PC is above 0xFFE
there is no such place and nothing changes (notes/assumptions/10.md). -/
def State.withFetchWord (s : State) (nbits w : Nat) : State :=
  if s.pc.toNat ≤ 0xFFE then
    s.setMem (s.mem.store s.pc.toNat [highByte (tableWord nbits w), lowByte (tableWord nbits w)])
  else s

end Sys2Proof.Machine
end

