-- ==== Sys2Proof/Machine/HostOps.lean ====
section
/-! DEFINITION. The four operations of the host (spec/10_state.md R28) and what it can read between steps (R29). -/

namespace Sys2Proof.Machine

/-- An operation of the host; each is atomic and they never overlap (R28). -/
inductive HostOp where
  /-- `reset` (spec/70_reset_and_hazards.md R200). -/
  | reset
  /-- `load(bytes)` (R202). -/
  | load (image : List Byte)
  /-- `set_key(k, b)` (spec/10_state.md R28). -/
  | setKey (k : Nibble) (pressed : Bool)
  /-- `step` (spec/40_step_cycle.md R80). -/
  | step
  deriving DecidableEq, Repr

/-- `KEY[k] <- b` (R28, R22). -/
def State.setKey (k : Nibble) (b : Bool) (s : State) : State := { s with keys := s.keys.set k.toNat b k.isLt }

/-- `load` on a running machine (R202, R203): the image at PROG_BASE and nothing else; one that is too long writes no byte and
leaves `Faulted(LoadError, len)`. -/
def State.load (image : List Byte) (s : State) : State :=
  if imageWellFormed image then s.setMem (s.mem.store Config.progBase image)
  else { s with status := .faulted .loadError image.length }

/-- The state that a host operation leaves, or none where the operation is not enabled: `load` and `step` in a faulted machine
(R89, R203). A step that faults leaves STATUS `Faulted` and all else as it was (R88). -/
def State.apply (op : HostOp) (s : State) : Option State :=
  match op with
  | .reset => some s.hostReset
  | .setKey k b => some (s.setKey k b)
  | .load image => if s.status = .running then some (s.load image) else none
  | .step =>
    match Machine.step s with
    | .next t => some t
    | .fault .notEnabled => none
    | .fault f => some (s.takeFault f)
    | .refused _ => none

/-- A run (spec/40_step_cycle.md R93): operations one after another, none where one of them is not enabled. -/
def State.applyAll : List HostOp → State → Option State
  | [], s => some s
  | op :: ops, s =>
    match s.apply op with
    | some t => State.applyAll ops t
    | none => none

/-- Element `k` of the flat framebuffer the host reads: cell (x, y) is element `y * 64 + x` (R20, R29). -/
def State.hostPixel (s : State) (k : Fin 2048) : Bool :=
  s.fb.cell (Fin.ofNat 64 k.val) (Fin.ofNat 32 (k.val / 64))

end Sys2Proof.Machine
end

