-- ==== Sys2Proof/Safety.lean ====
section
/-! DEFINITION. What claims about runs are stated in: a step without error, encodings whose meaning rests on decision D5, a program
that has ended, and the shape of every state a run reaches. -/

namespace Sys2Proof

open Machine

/-- The step completes and carries no report (spec/60_exceptions.md R174: "runs without error"). -/
def CleanStep (s t : State) : Prop := step s = .next t ∧ t.report = none

/-- The instruction names register 15 where another reading of the source gives other values (spec/93_implementation_defined.md
U6): portable claims are stated of programs that execute none of these. -/
def Instr.namesFlagOperand : Instr → Bool
  | .addReg x y | .subReg x y | .subnReg x y => x == VF || y == VF
  | .shr x _ | .shl x _ => x == VF
  | .drw x y _ => x == VF || y == VF
  | .cls | .ret | .jp _ | .call _ | .seImm _ _ | .sneImm _ _ | .seReg _ _ | .ldImm _ _ | .addImm _ _ | .ldReg _ _ => false
  | .orReg _ _ | .andReg _ _ | .xorReg _ _ | .sneReg _ _ | .ldI _ | .jpV0 _ | .rnd _ _ | .skp _ | .sknp _ => false
  | .ldVxDt _ | .ldVxK _ | .ldDtVx _ | .ldStVx _ | .addI _ | .ldF _ | .ldB _ | .ldMemVx _ | .ldVxMem _ => false

/-- The word at PC is a jump to PC: the customary end of a program (spec/70_reset_and_hazards.md R212). -/
def Machine.State.selfJump (s : State) : Bool :=
  decide (s.pc.toNat ≤ 0xFFE) && decide (s.read s.pc.toNat = 0x10 ||| (s.pc.extractLsb' 8 4).zeroExtend 8)
    && decide (s.read (s.pc.toNat + 1) = s.pc.extractLsb' 0 8)

/-- What every step keeps: memory is in its canonical form; PC is at most 0x10FE, the largest value any rule can produce
(spec/10_state.md R14); a return address lies at most two above the last fetchable address. -/
def Inv (s : State) : Prop :=
  s.mem.wf = true ∧ s.pc.toNat ≤ 0x10FE ∧ ∀ k : Nibble, (s.stackEntry k).toNat ≤ 0x1000

end Sys2Proof
end

