-- ==== Sys2Proof/Certificates/Slice0/Obligations.lean ====
section
/-! DEFINITION. The statements for the provers. `Sys2Proof.Claims` holds the words they are written in; a frame is written as an
equality `t = { s with … }` that names every field that may differ, beside the reads of registers and memory. -/

namespace Sys2Proof.Claims

open Machine

/-- The machine runs, and the two bytes at PC decode to the instruction. -/
def At (s : State) (i : Instr) : Prop :=
  s.status = .running ∧ s.pc.toNat ≤ 0xFFE ∧
    decode (bigEndian (s.read s.pc.toNat) (s.read (s.pc.toNat + 1))) = .instr i

/-- The word of the instruction is the number `n`, and that word decodes to the instruction. -/
def HasWord (i : Instr) (n : Nat) : Prop := (encode i).toNat = n ∧ decode (BitVec.ofNat 16 n) = .instr i

/-- PC moves on by `d`, modulo 65536. -/
def PcPlus (d : Nat) (s t : State) : Prop := t.pc.toNat = (s.pc.toNat + d) % 65536

/-- The instruction completes, writes `b` to register `x` and falls through; nothing else changes. -/
def WritesReg (i : Instr) (s : State) (x : Nibble) (b : Byte) : Prop :=
  ∃ t, exec i s = .next t ∧ t.reg x = b ∧ (∀ k, k ≠ x → t.reg k = s.reg k) ∧ PcPlus 2 s t ∧
    (∀ a, t.read a = s.read a) ∧ t = { s with v := t.v, pc := t.pc }

/-- The instruction completes, writes the flag `f` to VF and then `b` to register `x` (so that `b` stands when `x` is VF), and falls
through; nothing else changes. -/
def WritesFlagThenReg (i : Instr) (s : State) (f : Byte) (x : Nibble) (b : Byte) : Prop :=
  ∃ t, exec i s = .next t ∧ t.reg x = b ∧ (x ≠ VF → t.reg VF = f) ∧ (∀ k, k ≠ x → k ≠ VF → t.reg k = s.reg k) ∧
    PcPlus 2 s t ∧ (∀ a, t.read a = s.read a) ∧ t = { s with v := t.v, pc := t.pc }

/-- The instruction completes and sets PC; nothing else changes. -/
def WritesPc (i : Instr) (s : State) (target : Nat) : Prop :=
  ∃ t, exec i s = .next t ∧ t.pc.toNat = target ∧ (∀ k, t.reg k = s.reg k) ∧ (∀ a, t.read a = s.read a) ∧
    t = { s with pc := t.pc }

/-- The instruction completes, writes I and falls through; nothing else changes. -/
def WritesIndex (i : Instr) (s : State) (value : Nat) : Prop :=
  ∃ t, exec i s = .next t ∧ t.i.toNat = value ∧ PcPlus 2 s t ∧ (∀ k, t.reg k = s.reg k) ∧ (∀ a, t.read a = s.read a) ∧
    t = { s with i := t.i, pc := t.pc }

/-- The sprite of `n` rows at I, drawn at (Vx, Vy), has a bit that is 1 at the cell (c, r). -/
def SpriteLights (s : State) (x y n : Nibble) (c : Column) (r : RowNo) : Prop :=
  ∃ j k, j < n.toNat ∧ k < 8 ∧ (s.read (s.effAddr j)).getLsbD (7 - k) = true ∧
    c.val = ((s.reg x).toNat + k) % 64 ∧ r.val = ((s.reg y).toNat + j) % 32

/-- The fault that table R171 gives the instruction's operands, if any. -/
def operandFault (s : State) : Instr → Option Fault
  | .drw _ _ n => if 0 < n.toNat ∧ 0xFFF < s.i.toNat + n.toNat - 1 then some (.addressFault (max s.i.toNat 0x1000)) else none
  | .ldB _ => if 0xFFF < s.i.toNat + 2 then some (.addressFault (max s.i.toNat 0x1000)) else none
  | .ldMemVx x => if 0xFFF < s.i.toNat + x.toNat then some (.addressFault (max s.i.toNat 0x1000)) else none
  | .ldVxMem x => if 0xFFF < s.i.toNat + x.toNat then some (.addressFault (max s.i.toNat 0x1000)) else none
  | .skp x => if 15 < (s.reg x).toNat then some (.keyIndexFault (s.reg x).toNat) else none
  | .sknp x => if 15 < (s.reg x).toNat then some (.keyIndexFault (s.reg x).toNat) else none
  | _ => none

/-- The registers that an instruction may write: its destinations, and VF where it is the flag (R12). -/
def MayWriteReg (k : Nibble) : Instr → Prop
  | .ldImm x _ | .addImm x _ | .rnd x _ | .ldVxDt x | .ldVxK x => k = x
  | .ldReg x _ | .orReg x _ | .andReg x _ | .xorReg x _ => k = x
  | .addReg x _ | .subReg x _ | .shr x _ | .subnReg x _ | .shl x _ => k = x ∨ k = VF
  | .drw _ _ _ => k = VF
  | .ldVxMem x => k.toNat ≤ x.toNat
  | _ => False

/-- The instructions that use the data port (spec/20_memory.md R45). -/
def UsesDataPort : Instr → Prop
  | .drw _ _ _ | .ldB _ | .ldMemVx _ | .ldVxMem _ => True
  | _ => False

/-- An outcome with its next state changed. -/
def mapNext (f : State → State) : Host.Outcome State Fault Refusal → Host.Outcome State Fault Refusal
  | .next t => .next (f t)
  | .fault e => .fault e
  | .refused e => .refused e

/-- The word at PC is an `Fx15`. -/
def setsDelay (s : State) : Bool :=
  match decode (bigEndian (s.read s.pc.toNat) (s.read (s.pc.toNat + 1))) with
  | .instr (.ldDtVx _) => true
  | _ => false

/-- The state after `j` completed steps none of which executes `Fx15`; none where one does or a step does not complete. -/
def stepsWithoutFx15 : Nat → State → Option State
  | 0, s => some s
  | j + 1, s =>
    if setsDelay s then none
    else match step s with
      | .next t => stepsWithoutFx15 j t
      | _ => none

/-- Table R27. -/
def ResetTable (t : State) : Prop :=
  (∀ x, t.reg x = 0) ∧ t.i = 0 ∧ t.pc = 0x0200 ∧ t.sp = 0 ∧ (∀ k, t.stackEntry k = 0) ∧ t.dt = 0 ∧ t.st = 0 ∧
    (∀ a, a < 80 → t.read a = Config.font a) ∧ (∀ a, 80 ≤ a → a < 4096 → t.read a = 0) ∧
    (∀ c r, t.fb.cell c r = false) ∧ t.drawReady = false ∧ (∀ k, t.key k = false) ∧ t.status = .running

end Sys2Proof.Claims

open Sys2Proof Sys2Proof.Machine Sys2Proof.Claims

/-! ### Encoding -/

/-- Decoding the word of an instruction gives the instruction back, whatever its fields (R61, R62, R65). That the ignored y of the
two shifts is one of these fields is the model's choice (notes/assumptions/16.md). -/
def Obligations.DecodeInvertsEncode : Prop := ∀ i : Instr, decode (encode i) = .instr i

/-- A word that decodes to a term of `Instr` is that term's word (R61, R62, R65). In the spec the 16 words of `8xy6`, and of `8xyE`,
that differ in y alone are one instruction (R69, R128, R130); that they are 16 terms here, each with its ignored y, is the model's
choice (notes/assumptions/16.md). -/
def Obligations.EncodeInvertsDecode : Prop := ∀ (w : Word) (i : Instr), decode w = .instr i → encode i = w

/-- R64: a word is the instruction of a row of table R65 exactly when `w & mask = match`; at most one row matches; a word that
matches no row is `Unknown`. -/
def Obligations.DecodeFollowsOpcodeTable : Prop :=
  ∀ w : Word,
    (∀ r ∈ opcodeTable, (w &&& r.mask = r.value ↔ ∃ i, decode w = .instr i ∧ i.mnemonic = r.mnemonic)) ∧
    (∀ r ∈ opcodeTable, ∀ q ∈ opcodeTable, w &&& r.mask = r.value → w &&& q.mask = q.value → r = q) ∧
    ((∀ r ∈ opcodeTable, w &&& r.mask ≠ r.value) ↔ decode w = .unknown w)

/-- The unknown words, family by family (the list of R64 and R66, without its counts). -/
def Obligations.UnknownWordsByFamily : Prop :=
  ∀ w : Word, decode w = .unknown w ↔
    (fieldOp w = 0x0 ∧ w ≠ 0x00E0 ∧ w ≠ 0x00EE) ∨ (fieldOp w = 0x5 ∧ fieldN w ≠ 0) ∨ (fieldOp w = 0x9 ∧ fieldN w ≠ 0) ∨
    (fieldOp w = 0x8 ∧ fieldN w ∈ [0x8, 0x9, 0xA, 0xB, 0xC, 0xD, 0xF]) ∨
    (fieldOp w = 0xE ∧ fieldNN w ∉ [0x9E, 0xA1]) ∨
    (fieldOp w = 0xF ∧ fieldNN w ∉ [0x07, 0x0A, 0x15, 0x18, 0x1E, 0x29, 0x33, 0x55, 0x65])

/-- Words written out from the encodings decode to their instructions, one of each family (spec/95_test_vectors.md 2.1). -/
def Obligations.WrittenWordsDecode : Prop :=
  decode 0x00E0 = .instr .cls ∧ decode 0x2FFF = .instr (.call 0xFFF) ∧ decode 0x3A7F = .instr (.seImm 0xA 0x7F) ∧
  decode 0x8127 = .instr (.subnReg 1 2) ∧ decode 0xBABC = .instr (.jpV0 0xABC) ∧ decode 0xD123 = .instr (.drw 1 2 3) ∧
  decode 0xE1A1 = .instr (.sknp 1) ∧ decode 0xF133 = .instr (.ldB 1) ∧ decode 0x5121 = .unknown 0x5121 ∧
  decode 0x0123 = .unknown 0x0123 ∧ decode 0xF175 = .unknown 0xF175

/-! ### The step -/

/-- A step runs the instruction at PC on the state after phases (a) and (b) (R82 to R85). That the report of the last step is
dropped there is the model's own (notes/assumptions/5.md). -/
def Obligations.StepRunsDecodedInstruction : Prop :=
  ∀ (s : State) (i : Instr), At s i →
    step s = exec i { s with
      drawReady := false, dt := BitVec.ofNat 8 (s.dt.toNat - 1), st := BitVec.ofNat 8 (s.st.toNat - 1), report := none }

/-- R87: an unknown word changes nothing but what phases (a) and (b) change, PC advances by 2, the report carries word and
address, and STATUS stays `Running`. -/
def Obligations.StepReportsUnknownWord : Prop :=
  ∀ (s : State) (w : Word), s.status = .running → s.pc.toNat ≤ 0xFFE →
    bigEndian (s.read s.pc.toNat) (s.read (s.pc.toNat + 1)) = w → decode w = .unknown w →
    ∃ t, step s = .next t ∧ t.status = .running ∧ PcPlus 2 s t ∧ t.report = some (.unknownOpcode w s.pc) ∧
      t.drawReady = false ∧ t.dt.toNat = s.dt.toNat - 1 ∧ t.st.toNat = s.st.toNat - 1 ∧
      t = { s with pc := t.pc, report := t.report, drawReady := t.drawReady, dt := t.dt, st := t.st }

/-- R84: a fetch with PC above 0xFFE raises `AddressFault(PC)`, and below that the word is read big-endian at any parity of PC. -/
def Obligations.FetchReadsBigEndianOrFaults : Prop :=
  ∀ s : State, s.status = .running →
    (0xFFE < s.pc.toNat → step s = .fault (.addressFault s.pc.toNat)) ∧
    (s.pc.toNat ≤ 0xFFE → ∃ w, s.beginStep.fetchWord = some w ∧
      w.toNat = (s.read s.pc.toNat).toNat * 256 + (s.read (s.pc.toNat + 1)).toNat)

/-- The operand and fetch faults of a step are exactly those of table R171, in the order of R178. -/
def Obligations.StepFaultsExactlyAsTabled : Prop :=
  ∀ (s : State) (f : Fault), s.status = .running →
    (step s = .fault f ↔
      (0xFFE < s.pc.toNat ∧ f = .addressFault s.pc.toNat) ∨ ∃ i, At s i ∧ operandFault s i = some f)

/-- A running machine's step has exactly one of three outcomes (R9, R187): it completes with no report, completes with the report of
an unknown word, or faults with one of the two faults; it never refuses and never is stuck. -/
def Obligations.StepOutcomesOfRunningMachine : Prop :=
  ∀ s : State, s.status = .running →
    (∃ t i, At s i ∧ step s = .next t ∧ t.report = none) ∨
    (∃ t, (∀ i, ¬ At s i) ∧ step s = .next t ∧
      t.report = some (.unknownOpcode (bigEndian (s.read s.pc.toNat) (s.read (s.pc.toNat + 1))) s.pc)) ∨
    (∃ a, 0xFFE < a ∧ step s = .fault (.addressFault a)) ∨ (∃ k, 15 < k ∧ step s = .fault (.keyIndexFault k))

/-- A fault is precise (R88): nothing of the step is kept, PC still holds the address of the faulting instruction, and STATUS
records the cause and its info. That the report output is empty is no part of R88 but the model's own choice
(notes/assumptions/5.md). -/
def Obligations.FaultingStepKeepsAllButStatus : Prop :=
  ∀ (s : State) (f : Fault), s.status = .running → step s = .fault f →
    ∃ cause info, (f = .addressFault info ∧ cause = .addressFault ∨ f = .keyIndexFault info ∧ cause = .keyIndexFault) ∧
      s.apply .step = some { s with status := .faulted cause info, report := none }

/-- In a faulted machine `step` is not enabled (R89) and `load` is not (R203); no run of host operations without a reset leaves the
status (R23) or changes anything but the keys; a reset gives `Running` (R200). That the keys may change there is the model's choice:
`set_key` is enabled in a faulted machine (notes/assumptions/13.md). -/
def Obligations.FaultedMachineIsStuckUntilReset : Prop :=
  ∀ (s : State) (c : Cause) (n : Nat), s.status = .faulted c n →
    s.apply .step = none ∧ (∀ image, s.apply (.load image) = none) ∧
    (∀ ops t, HostOp.reset ∉ ops → s.applyAll ops = some t → t = { s with keys := t.keys }) ∧
    ∃ t, s.apply .reset = some t ∧ t.status = .running

/-! ### Invariants -/

/-- Every completed step keeps the invariant: canonical memory, PC at most 0x10FE (R14), return addresses at most 0x1000. -/
def Obligations.StepKeepsStateInvariant : Prop := ∀ s t : State, Inv s → step s = .next t → Inv t

/-- The state after reset meets the invariant. -/
def Obligations.ResetMeetsStateInvariant : Prop := Inv State.reset

/-- Every run of host operations keeps the invariant, loads, resets and faulting steps included. -/
def Obligations.HostRunsKeepStateInvariant : Prop :=
  ∀ (ops : List HostOp) (s t : State), Inv s → s.applyAll ops = some t → Inv t

/-! ### Host operations -/

/-- R27: after reset every element of state has the value of table R27, in the state after power-on and after a reset of any
state, a faulted one included. -/
def Obligations.ResetGivesTableValues : Prop :=
  ResetTable State.reset ∧ ∀ s : State, ∃ t, s.apply .reset = some t ∧ ResetTable t

/-- R202: a load that fits writes the image at 0x200 and changes nothing else, whenever it happens. -/
def Obligations.LoadOverlaysImage : Prop :=
  ∀ (s : State) (image : List Byte), s.status = .running → image.length ≤ 3584 →
    ∃ t, s.apply (.load image) = some t ∧ (∀ k (h : k < image.length), t.read (0x200 + k) = image[k]) ∧
      (∀ a, a < 0x200 ∨ 0x200 + image.length ≤ a → t.read a = s.read a) ∧ t = { s with mem := t.mem }

/-- R203: a load that is too long writes nothing and leaves `Faulted(LoadError, L)`; `load` is enabled only while running. -/
def Obligations.LoadTooLongIsRefused : Prop :=
  ∀ (s : State) (image : List Byte),
    (s.status = .running → 3584 < image.length →
      s.apply (.load image) = some { s with status := .faulted .loadError image.length }) ∧
    (s.status ≠ .running → s.apply (.load image) = none)

/-- `set_key(k, b)` sets one key and changes nothing else (R28). -/
def Obligations.SetKeyWritesOneKey : Prop :=
  ∀ (s : State) (k : Nibble) (b : Bool), ∃ t, s.apply (.setKey k b) = some t ∧ t.key k = b ∧
    (∀ j, j ≠ k → t.key j = s.key j) ∧ t = { s with keys := t.keys }

/-! ### Control transfer

From here on each statement of an instruction's result also states its word, the item "Encoding" of its rule. -/

/-- R101, R107: a jump goes to `nnn`, a jump with offset to V0 + nnn, not reduced to 12 bits. -/
def Obligations.JumpTargets : Prop :=
  ∀ (s : State) (nnn : Addr12),
    HasWord (.jp nnn) (0x1000 + nnn.toNat) ∧ WritesPc (.jp nnn) s nnn.toNat ∧
    HasWord (.jpV0 nnn) (0xB000 + nnn.toNat) ∧ WritesPc (.jpV0 nnn) s ((s.reg 0).toNat + nnn.toNat)

/-- R102: a call writes `pc0 + 2` to `STACK[SP]`, increments SP modulo 16 and goes to `nnn`; nothing else changes. -/
def Obligations.CallPushesNextAddress : Prop :=
  ∀ (s : State) (nnn : Addr12), HasWord (.call nnn) (0x2000 + nnn.toNat) ∧ ∃ t, exec (.call nnn) s = .next t ∧
    (t.stackEntry s.sp).toNat = (s.pc.toNat + 2) % 65536 ∧ (∀ k, k ≠ s.sp → t.stackEntry k = s.stackEntry k) ∧
    t.sp.toNat = (s.sp.toNat + 1) % 16 ∧ t.pc.toNat = nnn.toNat ∧ (∀ k, t.reg k = s.reg k) ∧
    (∀ a, t.read a = s.read a) ∧ t = { s with stack := t.stack, sp := t.sp, pc := t.pc }

/-- R100: a return decrements SP modulo 16 and loads PC from the entry there, which keeps its value; nothing else changes. -/
def Obligations.ReturnPopsEntry : Prop :=
  ∀ s : State, HasWord .ret 0x00EE ∧ ∃ t, exec .ret s = .next t ∧ t.sp.toNat = (s.sp.toNat + 15) % 16 ∧ t.pc = s.stackEntry t.sp ∧
    (∀ k, t.stackEntry k = s.stackEntry k) ∧ (∀ k, t.reg k = s.reg k) ∧ (∀ a, t.read a = s.read a) ∧
    t = { s with sp := t.sp, pc := t.pc }

/-- A return from the stack that a call left resumes after the call, at every depth, the wrapped ones included (R100, R102). -/
def Obligations.CallThenReturnResumes : Prop :=
  ∀ (s t u : State) (nnn : Addr12), exec (.call nnn) s = .next t → u.stack = t.stack → u.sp = t.sp →
    ∃ w, exec .ret u = .next w ∧ PcPlus 2 s w ∧ w.sp = s.sp

/-- R103 to R106: a skip adds 4 to PC when its condition holds and 2 when not; nothing else changes. -/
def Obligations.SkipsAddFourOrTwo : Prop :=
  ∀ (s : State) (x y : Nibble) (nn : Byte),
    HasWord (.seImm x nn) (0x3000 + 0x100 * x.toNat + nn.toNat) ∧ HasWord (.sneImm x nn) (0x4000 + 0x100 * x.toNat + nn.toNat) ∧
    HasWord (.seReg x y) (0x5000 + 0x100 * x.toNat + 0x10 * y.toNat) ∧
    HasWord (.sneReg x y) (0x9000 + 0x100 * x.toNat + 0x10 * y.toNat) ∧
    WritesPc (.seImm x nn) s ((s.pc.toNat + if s.reg x = nn then 4 else 2) % 65536) ∧
    WritesPc (.sneImm x nn) s ((s.pc.toNat + if s.reg x ≠ nn then 4 else 2) % 65536) ∧
    WritesPc (.seReg x y) s ((s.pc.toNat + if s.reg x = s.reg y then 4 else 2) % 65536) ∧
    WritesPc (.sneReg x y) s ((s.pc.toNat + if s.reg x ≠ s.reg y then 4 else 2) % 65536)

/-! ### Register load, arithmetic, logic, random -/

/-- R120 to R125: the loads, the add without flag and the logic operations; VF is not written unless it is the destination. -/
def Obligations.LoadAndLogicResults : Prop :=
  ∀ (s : State) (x y : Nibble) (nn : Byte),
    HasWord (.ldImm x nn) (0x6000 + 0x100 * x.toNat + nn.toNat) ∧ HasWord (.addImm x nn) (0x7000 + 0x100 * x.toNat + nn.toNat) ∧
    HasWord (.ldReg x y) (0x8000 + 0x100 * x.toNat + 0x10 * y.toNat) ∧
    HasWord (.orReg x y) (0x8001 + 0x100 * x.toNat + 0x10 * y.toNat) ∧
    HasWord (.andReg x y) (0x8002 + 0x100 * x.toNat + 0x10 * y.toNat) ∧
    HasWord (.xorReg x y) (0x8003 + 0x100 * x.toNat + 0x10 * y.toNat) ∧
    WritesReg (.ldImm x nn) s x nn ∧
    WritesReg (.addImm x nn) s x (BitVec.ofNat 8 (((s.reg x).toNat + nn.toNat) % 256)) ∧
    WritesReg (.ldReg x y) s x (s.reg y) ∧ WritesReg (.orReg x y) s x (s.reg x ||| s.reg y) ∧
    WritesReg (.andReg x y) s x (s.reg x &&& s.reg y) ∧ WritesReg (.xorReg x y) s x (s.reg x ^^^ s.reg y)

/-- R126, R127, R129: the sum with its carry, the two differences with their no-borrow; with x = 15 the result stands. -/
def Obligations.AddAndSubtractWithFlag : Prop :=
  ∀ (s : State) (x y : Nibble),
    HasWord (.addReg x y) (0x8004 + 0x100 * x.toNat + 0x10 * y.toNat) ∧
    HasWord (.subReg x y) (0x8005 + 0x100 * x.toNat + 0x10 * y.toNat) ∧
    HasWord (.subnReg x y) (0x8007 + 0x100 * x.toNat + 0x10 * y.toNat) ∧
    WritesFlagThenReg (.addReg x y) s (if 255 < (s.reg x).toNat + (s.reg y).toNat then 1 else 0) x
      (BitVec.ofNat 8 (((s.reg x).toNat + (s.reg y).toNat) % 256)) ∧
    WritesFlagThenReg (.subReg x y) s (if (s.reg x).toNat < (s.reg y).toNat then 0 else 1) x
      (BitVec.ofNat 8 (((s.reg x).toNat + 256 - (s.reg y).toNat) % 256)) ∧
    WritesFlagThenReg (.subnReg x y) s (if (s.reg y).toNat < (s.reg x).toNat then 0 else 1) x
      (BitVec.ofNat 8 (((s.reg y).toNat + 256 - (s.reg x).toNat) % 256))

/-- R128, R130: the shifts of Vx by one, with the bit shifted out; Vy takes no part. -/
def Obligations.ShiftsByOneWithFlag : Prop :=
  ∀ (s : State) (x y : Nibble),
    HasWord (.shr x y) (0x8006 + 0x100 * x.toNat + 0x10 * y.toNat) ∧
    HasWord (.shl x y) (0x800E + 0x100 * x.toNat + 0x10 * y.toNat) ∧
    WritesFlagThenReg (.shr x y) s (BitVec.ofNat 8 ((s.reg x).toNat % 2)) x (BitVec.ofNat 8 ((s.reg x).toNat / 2)) ∧
    WritesFlagThenReg (.shl x y) s (BitVec.ofNat 8 ((s.reg x).toNat / 128)) x (BitVec.ofNat 8 (2 * (s.reg x).toNat % 256))

/-- R131: Vx receives the drawn byte masked by `nn`; bits that are 0 in `nn` are 0. The draw is free: nothing says which byte it
is, and the next draw is another (notes/assumptions/2.md). -/
def Obligations.RandomByteIsMasked : Prop :=
  ∀ (s : State) (x : Nibble) (nn : Byte), HasWord (.rnd x nn) (0xC000 + 0x100 * x.toNat + nn.toNat) ∧
    ∃ t, exec (.rnd x nn) s = .next t ∧ t.reg x = Config.rnd s.draws &&& nn ∧
    (∀ j, nn.getLsbD j = false → (t.reg x).getLsbD j = false) ∧ (∀ k, k ≠ x → t.reg k = s.reg k) ∧ PcPlus 2 s t ∧
    (∀ a, t.read a = s.read a) ∧ t.draws = s.draws + 1 ∧ t = { s with v := t.v, pc := t.pc, draws := t.draws }

/-! ### Index register and memory -/

/-- R140, R141, R142: I receives `nnn`, I + Vx modulo 65536, and 5 * Vx for every Vx; no flag. -/
def Obligations.IndexRegisterResults : Prop :=
  ∀ (s : State) (x : Nibble) (nnn : Addr12),
    HasWord (.ldI nnn) (0xA000 + nnn.toNat) ∧ HasWord (.addI x) (0xF01E + 0x100 * x.toNat) ∧
    HasWord (.ldF x) (0xF029 + 0x100 * x.toNat) ∧
    WritesIndex (.ldI nnn) s nnn.toNat ∧ WritesIndex (.addI x) s ((s.i.toNat + (s.reg x).toNat) % 65536) ∧
    WritesIndex (.ldF x) s (5 * (s.reg x).toNat)

/-- R143: the three decimal digits of Vx at I, I + 1, I + 2; every other byte and register keeps its value; out of range it faults. -/
def Obligations.DecimalStoreResult : Prop :=
  ∀ (s : State) (x : Nibble),
    HasWord (.ldB x) (0xF033 + 0x100 * x.toNat) ∧
    (s.effAddr 2 ≤ 0xFFF → ∃ t, exec (.ldB x) s = .next t ∧
      (t.read (s.effAddr 0)).toNat = (s.reg x).toNat / 100 ∧ (t.read (s.effAddr 1)).toNat = (s.reg x).toNat / 10 % 10 ∧
      (t.read (s.effAddr 2)).toNat = (s.reg x).toNat % 10 ∧
      (∀ a, a < s.effAddr 0 ∨ s.effAddr 2 < a → t.read a = s.read a) ∧ (∀ k, t.reg k = s.reg k) ∧ PcPlus 2 s t ∧
      t = { s with mem := t.mem, pc := t.pc }) ∧
    (0xFFF < s.effAddr 2 → exec (.ldB x) s = .fault (.addressFault (max s.i.toNat 0x1000)))

/-- R144: V0 to Vx at I to I + x; I, every register and every other byte keep their values; out of range it faults. -/
def Obligations.RegisterStoreResult : Prop :=
  ∀ (s : State) (x : Nibble),
    HasWord (.ldMemVx x) (0xF055 + 0x100 * x.toNat) ∧
    (s.effAddr x.toNat ≤ 0xFFF → ∃ t, exec (.ldMemVx x) s = .next t ∧
      (∀ k : Nibble, k.toNat ≤ x.toNat → t.read (s.effAddr k.toNat) = s.reg k) ∧
      (∀ a, a < s.effAddr 0 ∨ s.effAddr x.toNat < a → t.read a = s.read a) ∧ (∀ k, t.reg k = s.reg k) ∧ PcPlus 2 s t ∧
      t = { s with mem := t.mem, pc := t.pc }) ∧
    (0xFFF < s.effAddr x.toNat → exec (.ldMemVx x) s = .fault (.addressFault (max s.i.toNat 0x1000)))

/-- R145: V0 to Vx from I to I + x; the registers above Vx, I and memory keep their values; out of range it faults. -/
def Obligations.RegisterLoadResult : Prop :=
  ∀ (s : State) (x : Nibble),
    HasWord (.ldVxMem x) (0xF065 + 0x100 * x.toNat) ∧
    (s.effAddr x.toNat ≤ 0xFFF → ∃ t, exec (.ldVxMem x) s = .next t ∧
      (∀ k : Nibble, k.toNat ≤ x.toNat → t.reg k = s.read (s.effAddr k.toNat)) ∧
      (∀ k : Nibble, x.toNat < k.toNat → t.reg k = s.reg k) ∧ (∀ a, t.read a = s.read a) ∧ PcPlus 2 s t ∧
      t = { s with v := t.v, pc := t.pc }) ∧
    (0xFFF < s.effAddr x.toNat → exec (.ldVxMem x) s = .fault (.addressFault (max s.i.toNat 0x1000)))

/-- Storing V0 to Vx and loading them back gives the registers of the store, from any state with that I and that memory (R144,
R145, example S8). -/
def Obligations.StoreThenLoadRestoresRegisters : Prop :=
  ∀ (s t u : State) (x : Nibble), exec (.ldMemVx x) s = .next t → u.i = t.i → (∀ a, u.read a = t.read a) →
    ∃ w, exec (.ldVxMem x) u = .next w ∧ (∀ k : Nibble, k.toNat ≤ x.toNat → w.reg k = s.reg k) ∧
      (∀ k : Nibble, x.toNat < k.toNat → w.reg k = u.reg k) ∧ t.i = s.i ∧ w.i = s.i

/-- A store is seen by the very next fetch (R53): when `Fx55` has written the two bytes at the new PC, the next step runs the
instruction those bytes encode. -/
def Obligations.StoreIsSeenByNextFetch : Prop :=
  ∀ (s t : State) (x k : Nibble) (i : Instr), At s (.ldMemVx x) → step s = .next t → k.toNat + 1 ≤ x.toNat →
    t.pc.toNat = s.effAddr k.toNat → decode (bigEndian (s.reg k) (s.reg (k + 1))) = .instr i →
    step t = exec i t.beginStep

/-! ### Display -/

/-- R150: all cells 0, DRAW_READY set, PC advanced by 2; nothing else changes. -/
def Obligations.ClearScreenResult : Prop :=
  ∀ s : State, HasWord .cls 0x00E0 ∧ ∃ t, exec .cls s = .next t ∧ (∀ c r, t.fb.cell c r = false) ∧ t.drawReady = true ∧ PcPlus 2 s t ∧
    (∀ k, t.reg k = s.reg k) ∧ (∀ a, t.read a = s.read a) ∧ t = { s with fb := t.fb, drawReady := t.drawReady, pc := t.pc }

/-- R151: the new framebuffer is the old one exclusive-or the sprite, VF is 1 exactly when a lit cell was hit and else 0, DRAW_READY
is set; nothing else changes; out of range it faults, and with n = 0 never. -/
def Obligations.DrawTogglesSpriteCells : Prop :=
  ∀ (s : State) (x y n : Nibble),
    HasWord (.drw x y n) (0xD000 + 0x100 * x.toNat + 0x10 * y.toNat + n.toNat) ∧
    (n.toNat = 0 ∨ s.i.toNat + n.toNat - 1 ≤ 0xFFF → ∃ t, exec (.drw x y n) s = .next t ∧
      (∀ c r, t.fb.cell c r = true ↔ Xor (s.fb.cell c r = true) (SpriteLights s x y n c r)) ∧
      ((∃ c r, SpriteLights s x y n c r ∧ s.fb.cell c r = true) → t.reg VF = 1) ∧
      ((¬ ∃ c r, SpriteLights s x y n c r ∧ s.fb.cell c r = true) → t.reg VF = 0) ∧
      t.drawReady = true ∧ (∀ k, k ≠ VF → t.reg k = s.reg k) ∧ (∀ a, t.read a = s.read a) ∧ PcPlus 2 s t ∧
      t = { s with v := t.v, fb := t.fb, drawReady := t.drawReady, pc := t.pc }) ∧
    (0 < n.toNat → 0xFFF < s.i.toNat + n.toNat - 1 →
      exec (.drw x y n) s = .fault (.addressFault (max s.i.toNat 0x1000)))

/-- R152 (3): drawing the same sprite at the same place a second time restores the framebuffer exactly, and its VF is 1 exactly when
the first draw left a cell of the sprite lit. -/
def Obligations.DrawTwiceRestoresScreen : Prop :=
  ∀ (s t u : State) (x y n : Nibble), exec (.drw x y n) s = .next t → u.fb = t.fb → u.i = s.i →
    (∀ a, u.read a = s.read a) → u.reg x = s.reg x → u.reg y = s.reg y →
    ∃ w, exec (.drw x y n) u = .next w ∧ w.fb = s.fb ∧
      (w.reg VF = 1 ↔ ∃ c r, SpriteLights s x y n c r ∧ t.fb.cell c r = true)

/-- After a step DRAW_READY is 1 exactly when the instruction it executed was `Dxyn` or `00E0` (R21). -/
def Obligations.DrawReadyExactlyAfterDrawing : Prop :=
  ∀ s t : State, step s = .next t → (t.drawReady = true ↔ At s .cls ∨ ∃ x y n, At s (.drw x y n))

/-! ### Keys and timers -/

/-- R160, R161: the key whose index is in Vx decides the skip; an index above 15 is a KeyIndexFault. -/
def Obligations.KeySkipResults : Prop :=
  ∀ (s : State) (x : Nibble),
    HasWord (.skp x) (0xE09E + 0x100 * x.toNat) ∧ HasWord (.sknp x) (0xE0A1 + 0x100 * x.toNat) ∧
    ((s.reg x).toNat ≤ 15 →
      WritesPc (.skp x) s ((s.pc.toNat + if s.keys[(s.reg x).toNat]? = some true then 4 else 2) % 65536) ∧
      WritesPc (.sknp x) s ((s.pc.toNat + if s.keys[(s.reg x).toNat]? = some false then 4 else 2) % 65536)) ∧
    (15 < (s.reg x).toNat →
      exec (.skp x) s = .fault (.keyIndexFault (s.reg x).toNat) ∧ exec (.sknp x) s = .fault (.keyIndexFault (s.reg x).toNat))

/-- R163: with no key pressed the instruction completes with PC held and nothing changed; otherwise Vx receives the index of a
pressed key and PC advances by 2. Which of several keys is free, and a draw is consumed for it (notes/assumptions/3.md). -/
def Obligations.KeyWaitResult : Prop :=
  ∀ (s : State) (x : Nibble),
    HasWord (.ldVxK x) (0xF00A + 0x100 * x.toNat) ∧
    ((∀ k, s.key k = false) → exec (.ldVxK x) s = .next s) ∧
    ((∃ k, s.key k = true) → ∃ t k, exec (.ldVxK x) s = .next t ∧ s.key k = true ∧ (t.reg x).toNat = k.toNat ∧
      (∀ j, j ≠ x → t.reg j = s.reg j) ∧ PcPlus 2 s t ∧ (∀ a, t.read a = s.read a) ∧
      t = { s with v := t.v, pc := t.pc, draws := t.draws } ∧
      ((∀ j, s.key j = true → j = k) → t.draws = s.draws) ∧ ((∃ j, s.key j = true ∧ j ≠ k) → t.draws = s.draws + 1))

/-- R162, R164, R165: Vx receives DT as it stands after the tick; DT or ST receives Vx; nothing else changes. -/
def Obligations.TimerRegisterResults : Prop :=
  ∀ (s : State) (x : Nibble),
    HasWord (.ldVxDt x) (0xF007 + 0x100 * x.toNat) ∧ HasWord (.ldDtVx x) (0xF015 + 0x100 * x.toNat) ∧
    HasWord (.ldStVx x) (0xF018 + 0x100 * x.toNat) ∧
    WritesReg (.ldVxDt x) s x s.dt ∧
    (∃ t, exec (.ldDtVx x) s = .next t ∧ t.dt = s.reg x ∧ PcPlus 2 s t ∧ (∀ k, t.reg k = s.reg k) ∧
      (∀ a, t.read a = s.read a) ∧ t = { s with dt := t.dt, pc := t.pc }) ∧
    (∃ t, exec (.ldStVx x) s = .next t ∧ t.st = s.reg x ∧ PcPlus 2 s t ∧ (∀ k, t.reg k = s.reg k) ∧
      (∀ a, t.read a = s.read a) ∧ t = { s with st := t.st, pc := t.pc })

/-- Both timers tick once in every completed step, an unknown word and a waiting `Fx0A` included, and stop at 0; only `Fx15` and
`Fx18` set them, after the tick (R83). -/
def Obligations.TimersTickInEveryStep : Prop :=
  ∀ s t : State, step s = .next t →
    (∀ x, At s (.ldDtVx x) → t.dt = s.reg x) ∧ ((∀ x, ¬ At s (.ldDtVx x)) → t.dt.toNat = s.dt.toNat - 1) ∧
    (∀ x, At s (.ldStVx x) → t.st = s.reg x) ∧ ((∀ x, ¬ At s (.ldStVx x)) → t.st.toNat = s.st.toNat - 1)

/-- R166 (1), (2): after `Fx15` with Vx = N, DT is max(N - j, 0) after j further steps without another `Fx15`, and an `Fx07` in
step j + 1 reads max(N - (j + 1), 0). -/
def Obligations.DelayTimerCountsSteps : Prop :=
  ∀ (s t u : State) (x : Nibble) (j : Nat), At s (.ldDtVx x) → step s = .next t → stepsWithoutFx15 j t = some u →
    u.dt.toNat = (s.reg x).toNat - j ∧
    ∀ (y : Nibble) (w : State), At u (.ldVxDt y) → step u = .next w → (w.reg y).toNat = (s.reg x).toNat - (j + 1)

/-! ### Whole-machine rules -/

/-- The draws matter only to `Cxnn`, and to `Fx0A` when at least two keys are pressed (R91). -/
def Obligations.DrawsMatterOnlyToRandomAndKeyWait : Prop :=
  ∀ (s : State) (i : Instr) (n : Nat), (∀ x nn, i ≠ .rnd x nn) →
    (∀ x, i = .ldVxK x → ∀ j k, s.key j = true → s.key k = true → j = k) →
    exec i { s with draws := n } = mapNext (fun t => { t with draws := n }) (exec i s)

/-- A step changes a general register only through an instruction that has it as a destination or, for VF, as its flag (R11, R12). -/
def Obligations.RegistersChangeOnlyAsDestinations : Prop :=
  ∀ (s t : State) (k : Nibble), step s = .next t → t.reg k ≠ s.reg k → ∃ i, At s i ∧ MayWriteReg k i

/-- A step changes a byte of memory only through `Fx33` or `Fx55`, inside the bytes they store (R45, R46). -/
def Obligations.MemoryChangesOnlyByStores : Prop :=
  ∀ (s t : State) (a : Nat), step s = .next t → t.read a ≠ s.read a →
    (∃ x, At s (.ldB x) ∧ s.effAddr 0 ≤ a ∧ a ≤ s.effAddr 2) ∨
    (∃ x, At s (.ldMemVx x) ∧ s.effAddr 0 ≤ a ∧ a ≤ s.effAddr x.toNat)

/-- A step changes SP only through `2nnn` and `00EE`, and a stack entry only through `2nnn`, at SP (R15, R16). -/
def Obligations.StackChangesOnlyByCallAndReturn : Prop :=
  ∀ s t : State, step s = .next t →
    (t.sp ≠ s.sp → At s .ret ∨ ∃ nnn, At s (.call nnn)) ∧
    (∀ k, t.stackEntry k ≠ s.stackEntry k → k = s.sp ∧ ∃ nnn, At s (.call nnn))

/-- A step changes the framebuffer only through `00E0` and `Dxyn`, and I only through `Annn`, `Fx1E` and `Fx29` (R13, R20). -/
def Obligations.ScreenAndIndexChangeOnlyByTheirInstructions : Prop :=
  ∀ s t : State, step s = .next t →
    (t.fb ≠ s.fb → At s .cls ∨ ∃ x y n, At s (.drw x y n)) ∧
    (t.i ≠ s.i → (∃ nnn, At s (.ldI nnn)) ∨ ∃ x, At s (.addI x) ∨ At s (.ldF x))

/-- No completed step writes a key or changes STATUS (R22, R23). -/
def Obligations.StepKeepsKeysAndStatus : Prop :=
  ∀ s t : State, step s = .next t → t.keys = s.keys ∧ s.status = .running ∧ t.status = .running

/-- Each step changes PC in one of the four ways of R86, and only the instructions named there take the last three. -/
def Obligations.PcTakesOneOfFourForms : Prop :=
  ∀ s t : State, step s = .next t →
    PcPlus 2 s t ∨
    (PcPlus 4 s t ∧ ∃ x y nn, At s (.seImm x nn) ∨ At s (.sneImm x nn) ∨ At s (.seReg x y) ∨ At s (.sneReg x y) ∨
      At s (.skp x) ∨ At s (.sknp x)) ∨
    (∃ nnn : Addr12, (At s (.jp nnn) ∨ At s (.call nnn)) ∧ t.pc.toNat = nnn.toNat) ∨
    (∃ nnn : Addr12, At s (.jpV0 nnn) ∧ t.pc.toNat = (s.reg 0).toNat + nnn.toNat) ∨
    (At s .ret ∧ t.pc = s.stackEntry (s.sp - 1)) ∨
    (t.pc = s.pc ∧ (∃ x, At s (.ldVxK x)) ∧ ∀ k, s.key k = false)

/-- A step whose instruction does not use the data port depends on no byte of memory but the two it fetched: in particular a skipped
slot is not examined (R45, R108). -/
def Obligations.StepIgnoresBytesNotFetched : Prop :=
  ∀ (s : State) (m : Memory), m.read s.pc.toNat = s.read s.pc.toNat →
    m.read (s.pc.toNat + 1) = s.read (s.pc.toNat + 1) → (∀ i, At s i → ¬ UsesDataPort i) →
    step { s with mem := m } = mapNext (fun t => { t with mem := m }) (step s)

/-- R212: a machine at a jump to itself stays there for every number of steps: the timers run down to 0 and nothing else changes but
DRAW_READY and the report output, which are cleared. -/
def Obligations.SelfJumpStaysForEver : Prop :=
  ∀ (k : Nat) (s : State), s.status = .running → s.selfJump = true →
    ∃ t : State, (core.run k s : Host.Outcome State Fault Refusal) = .next t ∧ t.dt.toNat = s.dt.toNat - k ∧
      t.st.toNat = s.st.toNat - k ∧
      (0 < k → t.drawReady = false ∧ t.report = none) ∧
      t = { s with dt := t.dt, st := t.st, drawReady := t.drawReady, report := t.report }

/-- Running into zeroed memory reports one unknown word per step and walks PC upward, until the fetch faults (R66, R201, R210 (2)). -/
def Obligations.ZeroedMemoryIsWalkedToTheTop : Prop :=
  ∀ (s : State) (k : Nat), s.status = .running → (∀ a, s.pc.toNat ≤ a → a ≤ 0xFFF → s.read a = 0) →
    s.pc.toNat + 2 * k ≤ 0x1000 →
    ∃ t : State, (core.run k s : Host.Outcome State Fault Refusal) = .next t ∧ t.pc.toNat = s.pc.toNat + 2 * k ∧
      (∀ a, t.read a = s.read a) ∧
      (0 < k → t.report = some (.unknownOpcode 0 (t.pc - 2))) ∧
      (0xFFE < t.pc.toNat → step t = .fault (.addressFault t.pc.toNat))
end

