-- ==== Sys2Proof/Laws/Encoding.lean ====
section
/-! SUPPORT. The fields of an encoded word, format by format (spec/30_encoding.md R61, table R62), and the bytes of a word. -/

namespace Sys2Proof

/-! ### Each field of an encoded word is the field it was encoded from -/

theorem fieldOp_encodeA (op : Nibble) (nnn : Addr12) : fieldOp (encodeA op nnn) = op := by
  refine BitVec.eq_of_getLsbD_eq fun i hi => ?_
  interval_cases i <;> simp [fieldOp, encodeA]

theorem fieldNNN_encodeA (op : Nibble) (nnn : Addr12) : fieldNNN (encodeA op nnn) = nnn := by
  refine BitVec.eq_of_getLsbD_eq fun i hi => ?_
  interval_cases i <;> simp [fieldNNN, encodeA]

theorem fieldOp_encodeXI (op x : Nibble) (nn : Byte) : fieldOp (encodeXI op x nn) = op := by
  refine BitVec.eq_of_getLsbD_eq fun i hi => ?_
  interval_cases i <;> simp [fieldOp, encodeXI]

theorem fieldX_encodeXI (op x : Nibble) (nn : Byte) : fieldX (encodeXI op x nn) = x := by
  refine BitVec.eq_of_getLsbD_eq fun i hi => ?_
  interval_cases i <;> simp [fieldX, encodeXI]

theorem fieldNN_encodeXI (op x : Nibble) (nn : Byte) : fieldNN (encodeXI op x nn) = nn := by
  refine BitVec.eq_of_getLsbD_eq fun i hi => ?_
  interval_cases i <;> simp [fieldNN, encodeXI]

theorem fieldOp_encodeXYN (op x y n : Nibble) : fieldOp (encodeXYN op x y n) = op := by
  refine BitVec.eq_of_getLsbD_eq fun i hi => ?_
  interval_cases i <;> simp [fieldOp, encodeXYN]

theorem fieldX_encodeXYN (op x y n : Nibble) : fieldX (encodeXYN op x y n) = x := by
  refine BitVec.eq_of_getLsbD_eq fun i hi => ?_
  interval_cases i <;> simp [fieldX, encodeXYN]

theorem fieldY_encodeXYN (op x y n : Nibble) : fieldY (encodeXYN op x y n) = y := by
  refine BitVec.eq_of_getLsbD_eq fun i hi => ?_
  interval_cases i <;> simp [fieldY, encodeXYN]

theorem fieldN_encodeXYN (op x y n : Nibble) : fieldN (encodeXYN op x y n) = n := by
  refine BitVec.eq_of_getLsbD_eq fun i hi => ?_
  interval_cases i <;> simp [fieldN, encodeXYN]

/-! ### A word is encoded from its own fields -/

theorem encodeA_fields (w : Word) : encodeA (fieldOp w) (fieldNNN w) = w := by
  refine BitVec.eq_of_getLsbD_eq fun i hi => ?_
  interval_cases i <;> simp [encodeA, fieldOp, fieldNNN]

theorem encodeXI_fields (w : Word) : encodeXI (fieldOp w) (fieldX w) (fieldNN w) = w := by
  refine BitVec.eq_of_getLsbD_eq fun i hi => ?_
  interval_cases i <;> simp [encodeXI, fieldOp, fieldX, fieldNN]

theorem encodeXYN_fields (w : Word) : encodeXYN (fieldOp w) (fieldX w) (fieldY w) (fieldN w) = w := by
  refine BitVec.eq_of_getLsbD_eq fun i hi => ?_
  interval_cases i <;> simp [encodeXYN, fieldOp, fieldX, fieldY, fieldN]

/-- The two bytes of a word, high byte first, are the word (spec/20_memory.md R42). -/
theorem bigEndian_bytes (w : Word) : bigEndian (highByte w) (lowByte w) = w := by
  refine BitVec.eq_of_getLsbD_eq fun i hi => ?_
  interval_cases i <;> simp [bigEndian, highByte, lowByte]

theorem highByte_bigEndian (hi lo : Byte) : highByte (bigEndian hi lo) = hi := by
  refine BitVec.eq_of_getLsbD_eq fun i h => ?_
  interval_cases i <;> simp [bigEndian, highByte]

theorem lowByte_bigEndian (hi lo : Byte) : lowByte (bigEndian hi lo) = lo := by
  refine BitVec.eq_of_getLsbD_eq fun i h => ?_
  interval_cases i <;> simp [bigEndian, lowByte]

/-! ### The fixed bits of each format (table R62, column "fixed bits") -/

theorem encodeA_fixed (op : Nibble) (nnn : Addr12) : encodeA op nnn &&& 0xF000 = encodeA op 0 := by
  refine BitVec.eq_of_getLsbD_eq fun i hi => ?_
  interval_cases i <;> simp [encodeA]

theorem encodeXI_fixed (op x : Nibble) (nn : Byte) : encodeXI op x nn &&& 0xF000 = encodeXI op 0 0 := by
  refine BitVec.eq_of_getLsbD_eq fun i hi => ?_
  interval_cases i <;> simp [encodeXI]

theorem encodeXI_fixed_low (op x : Nibble) (nn : Byte) : encodeXI op x nn &&& 0xF0FF = encodeXI op 0 nn := by
  refine BitVec.eq_of_getLsbD_eq fun i hi => ?_
  interval_cases i <;> simp [encodeXI]

theorem encodeXYN_fixed (op x y n : Nibble) : encodeXYN op x y n &&& 0xF000 = encodeXYN op 0 0 0 := by
  refine BitVec.eq_of_getLsbD_eq fun i hi => ?_
  interval_cases i <;> simp [encodeXYN]

theorem encodeXYN_fixed_low (op x y n : Nibble) : encodeXYN op x y n &&& 0xF00F = encodeXYN op 0 0 n := by
  refine BitVec.eq_of_getLsbD_eq fun i hi => ?_
  interval_cases i <;> simp [encodeXYN]

/-! ### The word as a number (table R62: the place of each field) -/

theorem or_toNat (a b : Word) (h : a &&& b = 0) : (a ||| b).toNat = (a.toNat + b.toNat) % 65536 := by
  rw [← BitVec.add_eq_or_of_and_eq_zero a b h, BitVec.toNat_add]

theorem encodeA_toNat (op : Nibble) (nnn : Addr12) : (encodeA op nnn).toNat = 0x1000 * op.toNat + nnn.toNat := by
  have h1 := op.isLt
  have h2 := nnn.isLt
  rw [encodeA, or_toNat]
  · simp [Nat.shiftLeft_eq]; omega
  · refine BitVec.eq_of_getLsbD_eq fun i hi => ?_
    interval_cases i <;> simp

theorem encodeXI_toNat (op x : Nibble) (nn : Byte) :
    (encodeXI op x nn).toNat = 0x1000 * op.toNat + 0x100 * x.toNat + nn.toNat := by
  have h1 := op.isLt
  have h2 := x.isLt
  have h3 := nn.isLt
  rw [encodeXI, or_toNat, or_toNat]
  · simp [Nat.shiftLeft_eq]; omega
  all_goals
    refine BitVec.eq_of_getLsbD_eq fun i hi => ?_
    interval_cases i <;> simp

theorem encodeXYN_toNat (op x y n : Nibble) :
    (encodeXYN op x y n).toNat = 0x1000 * op.toNat + 0x100 * x.toNat + 0x10 * y.toNat + n.toNat := by
  have h1 := op.isLt
  have h2 := x.isLt
  have h3 := y.isLt
  have h4 := n.isLt
  rw [encodeXYN, or_toNat, or_toNat, or_toNat]
  · simp [Nat.shiftLeft_eq]; omega
  all_goals
    refine BitVec.eq_of_getLsbD_eq fun i hi => ?_
    interval_cases i <;> simp

end Sys2Proof
end

