-- ==== Sys2Proof/Laws/State.lean ====
section
/-! SUPPORT. One lemma per field of State per update, each true by rfl, and the reads of registers, stack, keys and memory through
the updates, so that no proof unfolds a record update. -/

namespace Sys2Proof.Machine.State

variable (s : State)

/-! ### setMem -/

@[simp] theorem setMem_v (m : Memory) : (s.setMem m).v = s.v := rfl
@[simp] theorem setMem_i (m : Memory) : (s.setMem m).i = s.i := rfl
@[simp] theorem setMem_pc (m : Memory) : (s.setMem m).pc = s.pc := rfl
@[simp] theorem setMem_stack (m : Memory) : (s.setMem m).stack = s.stack := rfl
@[simp] theorem setMem_sp (m : Memory) : (s.setMem m).sp = s.sp := rfl
@[simp] theorem setMem_dt (m : Memory) : (s.setMem m).dt = s.dt := rfl
@[simp] theorem setMem_st (m : Memory) : (s.setMem m).st = s.st := rfl
@[simp] theorem setMem_mem (m : Memory) : (s.setMem m).mem = m := rfl
@[simp] theorem setMem_fb (m : Memory) : (s.setMem m).fb = s.fb := rfl
@[simp] theorem setMem_drawReady (m : Memory) : (s.setMem m).drawReady = s.drawReady := rfl
@[simp] theorem setMem_keys (m : Memory) : (s.setMem m).keys = s.keys := rfl
@[simp] theorem setMem_status (m : Memory) : (s.setMem m).status = s.status := rfl
@[simp] theorem setMem_report (m : Memory) : (s.setMem m).report = s.report := rfl
@[simp] theorem setMem_draws (m : Memory) : (s.setMem m).draws = s.draws := rfl

/-! ### setReg -/

@[simp] theorem setReg_v (x : Nibble) (b : Byte) : (s.setReg x b).v = s.v.set x.toNat b x.isLt := rfl
@[simp] theorem setReg_i (x : Nibble) (b : Byte) : (s.setReg x b).i = s.i := rfl
@[simp] theorem setReg_pc (x : Nibble) (b : Byte) : (s.setReg x b).pc = s.pc := rfl
@[simp] theorem setReg_stack (x : Nibble) (b : Byte) : (s.setReg x b).stack = s.stack := rfl
@[simp] theorem setReg_sp (x : Nibble) (b : Byte) : (s.setReg x b).sp = s.sp := rfl
@[simp] theorem setReg_dt (x : Nibble) (b : Byte) : (s.setReg x b).dt = s.dt := rfl
@[simp] theorem setReg_st (x : Nibble) (b : Byte) : (s.setReg x b).st = s.st := rfl
@[simp] theorem setReg_mem (x : Nibble) (b : Byte) : (s.setReg x b).mem = s.mem := rfl
@[simp] theorem setReg_fb (x : Nibble) (b : Byte) : (s.setReg x b).fb = s.fb := rfl
@[simp] theorem setReg_drawReady (x : Nibble) (b : Byte) : (s.setReg x b).drawReady = s.drawReady := rfl
@[simp] theorem setReg_keys (x : Nibble) (b : Byte) : (s.setReg x b).keys = s.keys := rfl
@[simp] theorem setReg_status (x : Nibble) (b : Byte) : (s.setReg x b).status = s.status := rfl
@[simp] theorem setReg_report (x : Nibble) (b : Byte) : (s.setReg x b).report = s.report := rfl
@[simp] theorem setReg_draws (x : Nibble) (b : Byte) : (s.setReg x b).draws = s.draws := rfl

/-! ### setV -/

@[simp] theorem setV_v (v : Vector Byte 16) : (s.setV v).v = v := rfl
@[simp] theorem setV_i (v : Vector Byte 16) : (s.setV v).i = s.i := rfl
@[simp] theorem setV_pc (v : Vector Byte 16) : (s.setV v).pc = s.pc := rfl
@[simp] theorem setV_stack (v : Vector Byte 16) : (s.setV v).stack = s.stack := rfl
@[simp] theorem setV_sp (v : Vector Byte 16) : (s.setV v).sp = s.sp := rfl
@[simp] theorem setV_dt (v : Vector Byte 16) : (s.setV v).dt = s.dt := rfl
@[simp] theorem setV_st (v : Vector Byte 16) : (s.setV v).st = s.st := rfl
@[simp] theorem setV_mem (v : Vector Byte 16) : (s.setV v).mem = s.mem := rfl
@[simp] theorem setV_fb (v : Vector Byte 16) : (s.setV v).fb = s.fb := rfl
@[simp] theorem setV_drawReady (v : Vector Byte 16) : (s.setV v).drawReady = s.drawReady := rfl
@[simp] theorem setV_keys (v : Vector Byte 16) : (s.setV v).keys = s.keys := rfl
@[simp] theorem setV_status (v : Vector Byte 16) : (s.setV v).status = s.status := rfl
@[simp] theorem setV_report (v : Vector Byte 16) : (s.setV v).report = s.report := rfl
@[simp] theorem setV_draws (v : Vector Byte 16) : (s.setV v).draws = s.draws := rfl

/-! ### setI -/

@[simp] theorem setI_v (w : Word) : (s.setI w).v = s.v := rfl
@[simp] theorem setI_i (w : Word) : (s.setI w).i = w := rfl
@[simp] theorem setI_pc (w : Word) : (s.setI w).pc = s.pc := rfl
@[simp] theorem setI_stack (w : Word) : (s.setI w).stack = s.stack := rfl
@[simp] theorem setI_sp (w : Word) : (s.setI w).sp = s.sp := rfl
@[simp] theorem setI_dt (w : Word) : (s.setI w).dt = s.dt := rfl
@[simp] theorem setI_st (w : Word) : (s.setI w).st = s.st := rfl
@[simp] theorem setI_mem (w : Word) : (s.setI w).mem = s.mem := rfl
@[simp] theorem setI_fb (w : Word) : (s.setI w).fb = s.fb := rfl
@[simp] theorem setI_drawReady (w : Word) : (s.setI w).drawReady = s.drawReady := rfl
@[simp] theorem setI_keys (w : Word) : (s.setI w).keys = s.keys := rfl
@[simp] theorem setI_status (w : Word) : (s.setI w).status = s.status := rfl
@[simp] theorem setI_report (w : Word) : (s.setI w).report = s.report := rfl
@[simp] theorem setI_draws (w : Word) : (s.setI w).draws = s.draws := rfl

/-! ### setDt -/

@[simp] theorem setDt_v (b : Byte) : (s.setDt b).v = s.v := rfl
@[simp] theorem setDt_i (b : Byte) : (s.setDt b).i = s.i := rfl
@[simp] theorem setDt_pc (b : Byte) : (s.setDt b).pc = s.pc := rfl
@[simp] theorem setDt_stack (b : Byte) : (s.setDt b).stack = s.stack := rfl
@[simp] theorem setDt_sp (b : Byte) : (s.setDt b).sp = s.sp := rfl
@[simp] theorem setDt_dt (b : Byte) : (s.setDt b).dt = b := rfl
@[simp] theorem setDt_st (b : Byte) : (s.setDt b).st = s.st := rfl
@[simp] theorem setDt_mem (b : Byte) : (s.setDt b).mem = s.mem := rfl
@[simp] theorem setDt_fb (b : Byte) : (s.setDt b).fb = s.fb := rfl
@[simp] theorem setDt_drawReady (b : Byte) : (s.setDt b).drawReady = s.drawReady := rfl
@[simp] theorem setDt_keys (b : Byte) : (s.setDt b).keys = s.keys := rfl
@[simp] theorem setDt_status (b : Byte) : (s.setDt b).status = s.status := rfl
@[simp] theorem setDt_report (b : Byte) : (s.setDt b).report = s.report := rfl
@[simp] theorem setDt_draws (b : Byte) : (s.setDt b).draws = s.draws := rfl

/-! ### setSt -/

@[simp] theorem setSt_v (b : Byte) : (s.setSt b).v = s.v := rfl
@[simp] theorem setSt_i (b : Byte) : (s.setSt b).i = s.i := rfl
@[simp] theorem setSt_pc (b : Byte) : (s.setSt b).pc = s.pc := rfl
@[simp] theorem setSt_stack (b : Byte) : (s.setSt b).stack = s.stack := rfl
@[simp] theorem setSt_sp (b : Byte) : (s.setSt b).sp = s.sp := rfl
@[simp] theorem setSt_dt (b : Byte) : (s.setSt b).dt = s.dt := rfl
@[simp] theorem setSt_st (b : Byte) : (s.setSt b).st = b := rfl
@[simp] theorem setSt_mem (b : Byte) : (s.setSt b).mem = s.mem := rfl
@[simp] theorem setSt_fb (b : Byte) : (s.setSt b).fb = s.fb := rfl
@[simp] theorem setSt_drawReady (b : Byte) : (s.setSt b).drawReady = s.drawReady := rfl
@[simp] theorem setSt_keys (b : Byte) : (s.setSt b).keys = s.keys := rfl
@[simp] theorem setSt_status (b : Byte) : (s.setSt b).status = s.status := rfl
@[simp] theorem setSt_report (b : Byte) : (s.setSt b).report = s.report := rfl
@[simp] theorem setSt_draws (b : Byte) : (s.setSt b).draws = s.draws := rfl

/-! ### push -/

@[simp] theorem push_v (w : Word) : (s.push w).v = s.v := rfl
@[simp] theorem push_i (w : Word) : (s.push w).i = s.i := rfl
@[simp] theorem push_pc (w : Word) : (s.push w).pc = s.pc := rfl
@[simp] theorem push_stack (w : Word) : (s.push w).stack = s.stack.set s.sp.toNat w s.sp.isLt := rfl
@[simp] theorem push_sp (w : Word) : (s.push w).sp = s.sp + 1 := rfl
@[simp] theorem push_dt (w : Word) : (s.push w).dt = s.dt := rfl
@[simp] theorem push_st (w : Word) : (s.push w).st = s.st := rfl
@[simp] theorem push_mem (w : Word) : (s.push w).mem = s.mem := rfl
@[simp] theorem push_fb (w : Word) : (s.push w).fb = s.fb := rfl
@[simp] theorem push_drawReady (w : Word) : (s.push w).drawReady = s.drawReady := rfl
@[simp] theorem push_keys (w : Word) : (s.push w).keys = s.keys := rfl
@[simp] theorem push_status (w : Word) : (s.push w).status = s.status := rfl
@[simp] theorem push_report (w : Word) : (s.push w).report = s.report := rfl
@[simp] theorem push_draws (w : Word) : (s.push w).draws = s.draws := rfl

/-! ### pop -/

@[simp] theorem pop_v : (s.pop).v = s.v := rfl
@[simp] theorem pop_i : (s.pop).i = s.i := rfl
@[simp] theorem pop_pc : (s.pop).pc = s.pc := rfl
@[simp] theorem pop_stack : (s.pop).stack = s.stack := rfl
@[simp] theorem pop_sp : (s.pop).sp = s.sp - 1 := rfl
@[simp] theorem pop_dt : (s.pop).dt = s.dt := rfl
@[simp] theorem pop_st : (s.pop).st = s.st := rfl
@[simp] theorem pop_mem : (s.pop).mem = s.mem := rfl
@[simp] theorem pop_fb : (s.pop).fb = s.fb := rfl
@[simp] theorem pop_drawReady : (s.pop).drawReady = s.drawReady := rfl
@[simp] theorem pop_keys : (s.pop).keys = s.keys := rfl
@[simp] theorem pop_status : (s.pop).status = s.status := rfl
@[simp] theorem pop_report : (s.pop).report = s.report := rfl
@[simp] theorem pop_draws : (s.pop).draws = s.draws := rfl

/-! ### nextDraw -/

@[simp] theorem nextDraw_v : (s.nextDraw).v = s.v := rfl
@[simp] theorem nextDraw_i : (s.nextDraw).i = s.i := rfl
@[simp] theorem nextDraw_pc : (s.nextDraw).pc = s.pc := rfl
@[simp] theorem nextDraw_stack : (s.nextDraw).stack = s.stack := rfl
@[simp] theorem nextDraw_sp : (s.nextDraw).sp = s.sp := rfl
@[simp] theorem nextDraw_dt : (s.nextDraw).dt = s.dt := rfl
@[simp] theorem nextDraw_st : (s.nextDraw).st = s.st := rfl
@[simp] theorem nextDraw_mem : (s.nextDraw).mem = s.mem := rfl
@[simp] theorem nextDraw_fb : (s.nextDraw).fb = s.fb := rfl
@[simp] theorem nextDraw_drawReady : (s.nextDraw).drawReady = s.drawReady := rfl
@[simp] theorem nextDraw_keys : (s.nextDraw).keys = s.keys := rfl
@[simp] theorem nextDraw_status : (s.nextDraw).status = s.status := rfl
@[simp] theorem nextDraw_report : (s.nextDraw).report = s.report := rfl
@[simp] theorem nextDraw_draws : (s.nextDraw).draws = s.draws + 1 := rfl

/-! ### draw -/

@[simp] theorem draw_v (f : Screen) : (s.draw f).v = s.v := rfl
@[simp] theorem draw_i (f : Screen) : (s.draw f).i = s.i := rfl
@[simp] theorem draw_pc (f : Screen) : (s.draw f).pc = s.pc := rfl
@[simp] theorem draw_stack (f : Screen) : (s.draw f).stack = s.stack := rfl
@[simp] theorem draw_sp (f : Screen) : (s.draw f).sp = s.sp := rfl
@[simp] theorem draw_dt (f : Screen) : (s.draw f).dt = s.dt := rfl
@[simp] theorem draw_st (f : Screen) : (s.draw f).st = s.st := rfl
@[simp] theorem draw_mem (f : Screen) : (s.draw f).mem = s.mem := rfl
@[simp] theorem draw_fb (f : Screen) : (s.draw f).fb = f := rfl
@[simp] theorem draw_drawReady (f : Screen) : (s.draw f).drawReady = true := rfl
@[simp] theorem draw_keys (f : Screen) : (s.draw f).keys = s.keys := rfl
@[simp] theorem draw_status (f : Screen) : (s.draw f).status = s.status := rfl
@[simp] theorem draw_report (f : Screen) : (s.draw f).report = s.report := rfl
@[simp] theorem draw_draws (f : Screen) : (s.draw f).draws = s.draws := rfl

/-! ### jump -/

@[simp] theorem jump_v (w : Word) : (s.jump w).v = s.v := rfl
@[simp] theorem jump_i (w : Word) : (s.jump w).i = s.i := rfl
@[simp] theorem jump_pc (w : Word) : (s.jump w).pc = w := rfl
@[simp] theorem jump_stack (w : Word) : (s.jump w).stack = s.stack := rfl
@[simp] theorem jump_sp (w : Word) : (s.jump w).sp = s.sp := rfl
@[simp] theorem jump_dt (w : Word) : (s.jump w).dt = s.dt := rfl
@[simp] theorem jump_st (w : Word) : (s.jump w).st = s.st := rfl
@[simp] theorem jump_mem (w : Word) : (s.jump w).mem = s.mem := rfl
@[simp] theorem jump_fb (w : Word) : (s.jump w).fb = s.fb := rfl
@[simp] theorem jump_drawReady (w : Word) : (s.jump w).drawReady = s.drawReady := rfl
@[simp] theorem jump_keys (w : Word) : (s.jump w).keys = s.keys := rfl
@[simp] theorem jump_status (w : Word) : (s.jump w).status = s.status := rfl
@[simp] theorem jump_report (w : Word) : (s.jump w).report = s.report := rfl
@[simp] theorem jump_draws (w : Word) : (s.jump w).draws = s.draws := rfl

/-! ### fallThrough -/

@[simp] theorem fallThrough_v : (s.fallThrough).v = s.v := rfl
@[simp] theorem fallThrough_i : (s.fallThrough).i = s.i := rfl
@[simp] theorem fallThrough_pc : (s.fallThrough).pc = s.pc + 2 := rfl
@[simp] theorem fallThrough_stack : (s.fallThrough).stack = s.stack := rfl
@[simp] theorem fallThrough_sp : (s.fallThrough).sp = s.sp := rfl
@[simp] theorem fallThrough_dt : (s.fallThrough).dt = s.dt := rfl
@[simp] theorem fallThrough_st : (s.fallThrough).st = s.st := rfl
@[simp] theorem fallThrough_mem : (s.fallThrough).mem = s.mem := rfl
@[simp] theorem fallThrough_fb : (s.fallThrough).fb = s.fb := rfl
@[simp] theorem fallThrough_drawReady : (s.fallThrough).drawReady = s.drawReady := rfl
@[simp] theorem fallThrough_keys : (s.fallThrough).keys = s.keys := rfl
@[simp] theorem fallThrough_status : (s.fallThrough).status = s.status := rfl
@[simp] theorem fallThrough_report : (s.fallThrough).report = s.report := rfl
@[simp] theorem fallThrough_draws : (s.fallThrough).draws = s.draws := rfl

/-! ### skipIf -/

@[simp] theorem skipIf_v (c : Bool) : (s.skipIf c).v = s.v := rfl
@[simp] theorem skipIf_i (c : Bool) : (s.skipIf c).i = s.i := rfl
@[simp] theorem skipIf_pc (c : Bool) : (s.skipIf c).pc = if c then s.pc + 4 else s.pc + 2 := rfl
@[simp] theorem skipIf_stack (c : Bool) : (s.skipIf c).stack = s.stack := rfl
@[simp] theorem skipIf_sp (c : Bool) : (s.skipIf c).sp = s.sp := rfl
@[simp] theorem skipIf_dt (c : Bool) : (s.skipIf c).dt = s.dt := rfl
@[simp] theorem skipIf_st (c : Bool) : (s.skipIf c).st = s.st := rfl
@[simp] theorem skipIf_mem (c : Bool) : (s.skipIf c).mem = s.mem := rfl
@[simp] theorem skipIf_fb (c : Bool) : (s.skipIf c).fb = s.fb := rfl
@[simp] theorem skipIf_drawReady (c : Bool) : (s.skipIf c).drawReady = s.drawReady := rfl
@[simp] theorem skipIf_keys (c : Bool) : (s.skipIf c).keys = s.keys := rfl
@[simp] theorem skipIf_status (c : Bool) : (s.skipIf c).status = s.status := rfl
@[simp] theorem skipIf_report (c : Bool) : (s.skipIf c).report = s.report := rfl
@[simp] theorem skipIf_draws (c : Bool) : (s.skipIf c).draws = s.draws := rfl

/-! ### setFlagThenReg -/

@[simp] theorem setFlagThenReg_v (f : Bool) (x : Nibble) (r : Byte) : (s.setFlagThenReg f x r).v = (s.v.set VF.toNat (flagByte f) VF.isLt).set x.toNat r x.isLt := rfl
@[simp] theorem setFlagThenReg_i (f : Bool) (x : Nibble) (r : Byte) : (s.setFlagThenReg f x r).i = s.i := rfl
@[simp] theorem setFlagThenReg_pc (f : Bool) (x : Nibble) (r : Byte) : (s.setFlagThenReg f x r).pc = s.pc := rfl
@[simp] theorem setFlagThenReg_stack (f : Bool) (x : Nibble) (r : Byte) : (s.setFlagThenReg f x r).stack = s.stack := rfl
@[simp] theorem setFlagThenReg_sp (f : Bool) (x : Nibble) (r : Byte) : (s.setFlagThenReg f x r).sp = s.sp := rfl
@[simp] theorem setFlagThenReg_dt (f : Bool) (x : Nibble) (r : Byte) : (s.setFlagThenReg f x r).dt = s.dt := rfl
@[simp] theorem setFlagThenReg_st (f : Bool) (x : Nibble) (r : Byte) : (s.setFlagThenReg f x r).st = s.st := rfl
@[simp] theorem setFlagThenReg_mem (f : Bool) (x : Nibble) (r : Byte) : (s.setFlagThenReg f x r).mem = s.mem := rfl
@[simp] theorem setFlagThenReg_fb (f : Bool) (x : Nibble) (r : Byte) : (s.setFlagThenReg f x r).fb = s.fb := rfl
@[simp] theorem setFlagThenReg_drawReady (f : Bool) (x : Nibble) (r : Byte) : (s.setFlagThenReg f x r).drawReady = s.drawReady := rfl
@[simp] theorem setFlagThenReg_keys (f : Bool) (x : Nibble) (r : Byte) : (s.setFlagThenReg f x r).keys = s.keys := rfl
@[simp] theorem setFlagThenReg_status (f : Bool) (x : Nibble) (r : Byte) : (s.setFlagThenReg f x r).status = s.status := rfl
@[simp] theorem setFlagThenReg_report (f : Bool) (x : Nibble) (r : Byte) : (s.setFlagThenReg f x r).report = s.report := rfl
@[simp] theorem setFlagThenReg_draws (f : Bool) (x : Nibble) (r : Byte) : (s.setFlagThenReg f x r).draws = s.draws := rfl

/-! ### beginStep -/

@[simp] theorem beginStep_v : (s.beginStep).v = s.v := rfl
@[simp] theorem beginStep_i : (s.beginStep).i = s.i := rfl
@[simp] theorem beginStep_pc : (s.beginStep).pc = s.pc := rfl
@[simp] theorem beginStep_stack : (s.beginStep).stack = s.stack := rfl
@[simp] theorem beginStep_sp : (s.beginStep).sp = s.sp := rfl
@[simp] theorem beginStep_dt : (s.beginStep).dt = countDown s.dt := rfl
@[simp] theorem beginStep_st : (s.beginStep).st = countDown s.st := rfl
@[simp] theorem beginStep_mem : (s.beginStep).mem = s.mem := rfl
@[simp] theorem beginStep_fb : (s.beginStep).fb = s.fb := rfl
@[simp] theorem beginStep_drawReady : (s.beginStep).drawReady = false := rfl
@[simp] theorem beginStep_keys : (s.beginStep).keys = s.keys := rfl
@[simp] theorem beginStep_status : (s.beginStep).status = s.status := rfl
@[simp] theorem beginStep_report : (s.beginStep).report = none := rfl
@[simp] theorem beginStep_draws : (s.beginStep).draws = s.draws := rfl

/-! ### reportUnknown -/

@[simp] theorem reportUnknown_v (w : Word) : (s.reportUnknown w).v = s.v := rfl
@[simp] theorem reportUnknown_i (w : Word) : (s.reportUnknown w).i = s.i := rfl
@[simp] theorem reportUnknown_pc (w : Word) : (s.reportUnknown w).pc = s.pc + 2 := rfl
@[simp] theorem reportUnknown_stack (w : Word) : (s.reportUnknown w).stack = s.stack := rfl
@[simp] theorem reportUnknown_sp (w : Word) : (s.reportUnknown w).sp = s.sp := rfl
@[simp] theorem reportUnknown_dt (w : Word) : (s.reportUnknown w).dt = s.dt := rfl
@[simp] theorem reportUnknown_st (w : Word) : (s.reportUnknown w).st = s.st := rfl
@[simp] theorem reportUnknown_mem (w : Word) : (s.reportUnknown w).mem = s.mem := rfl
@[simp] theorem reportUnknown_fb (w : Word) : (s.reportUnknown w).fb = s.fb := rfl
@[simp] theorem reportUnknown_drawReady (w : Word) : (s.reportUnknown w).drawReady = s.drawReady := rfl
@[simp] theorem reportUnknown_keys (w : Word) : (s.reportUnknown w).keys = s.keys := rfl
@[simp] theorem reportUnknown_status (w : Word) : (s.reportUnknown w).status = s.status := rfl
@[simp] theorem reportUnknown_report (w : Word) : (s.reportUnknown w).report = some (.unknownOpcode w s.pc) := rfl
@[simp] theorem reportUnknown_draws (w : Word) : (s.reportUnknown w).draws = s.draws := rfl

/-! ### takeFault -/

@[simp] theorem takeFault_v (f : Fault) : (s.takeFault f).v = s.v := rfl
@[simp] theorem takeFault_i (f : Fault) : (s.takeFault f).i = s.i := rfl
@[simp] theorem takeFault_pc (f : Fault) : (s.takeFault f).pc = s.pc := rfl
@[simp] theorem takeFault_stack (f : Fault) : (s.takeFault f).stack = s.stack := rfl
@[simp] theorem takeFault_sp (f : Fault) : (s.takeFault f).sp = s.sp := rfl
@[simp] theorem takeFault_dt (f : Fault) : (s.takeFault f).dt = s.dt := rfl
@[simp] theorem takeFault_st (f : Fault) : (s.takeFault f).st = s.st := rfl
@[simp] theorem takeFault_mem (f : Fault) : (s.takeFault f).mem = s.mem := rfl
@[simp] theorem takeFault_fb (f : Fault) : (s.takeFault f).fb = s.fb := rfl
@[simp] theorem takeFault_drawReady (f : Fault) : (s.takeFault f).drawReady = s.drawReady := rfl
@[simp] theorem takeFault_keys (f : Fault) : (s.takeFault f).keys = s.keys := rfl
@[simp] theorem takeFault_status (f : Fault) : (s.takeFault f).status = f.statusAfter s.status := rfl
@[simp] theorem takeFault_report (f : Fault) : (s.takeFault f).report = none := rfl
@[simp] theorem takeFault_draws (f : Fault) : (s.takeFault f).draws = s.draws := rfl

/-! ### setKey -/

@[simp] theorem setKey_v (k : Nibble) (b : Bool) : (s.setKey k b).v = s.v := rfl
@[simp] theorem setKey_i (k : Nibble) (b : Bool) : (s.setKey k b).i = s.i := rfl
@[simp] theorem setKey_pc (k : Nibble) (b : Bool) : (s.setKey k b).pc = s.pc := rfl
@[simp] theorem setKey_stack (k : Nibble) (b : Bool) : (s.setKey k b).stack = s.stack := rfl
@[simp] theorem setKey_sp (k : Nibble) (b : Bool) : (s.setKey k b).sp = s.sp := rfl
@[simp] theorem setKey_dt (k : Nibble) (b : Bool) : (s.setKey k b).dt = s.dt := rfl
@[simp] theorem setKey_st (k : Nibble) (b : Bool) : (s.setKey k b).st = s.st := rfl
@[simp] theorem setKey_mem (k : Nibble) (b : Bool) : (s.setKey k b).mem = s.mem := rfl
@[simp] theorem setKey_fb (k : Nibble) (b : Bool) : (s.setKey k b).fb = s.fb := rfl
@[simp] theorem setKey_drawReady (k : Nibble) (b : Bool) : (s.setKey k b).drawReady = s.drawReady := rfl
@[simp] theorem setKey_keys (k : Nibble) (b : Bool) : (s.setKey k b).keys = s.keys.set k.toNat b k.isLt := rfl
@[simp] theorem setKey_status (k : Nibble) (b : Bool) : (s.setKey k b).status = s.status := rfl
@[simp] theorem setKey_report (k : Nibble) (b : Bool) : (s.setKey k b).report = s.report := rfl
@[simp] theorem setKey_draws (k : Nibble) (b : Bool) : (s.setKey k b).draws = s.draws := rfl

@[simp] theorem hold_eq : s.hold = s := rfl

/-! ### Reads through updates -/

@[simp] theorem setMem_reg (m : Memory) (y : Nibble) : (s.setMem m).reg y = s.reg y := rfl
@[simp] theorem setI_reg (w : Word) (y : Nibble) : (s.setI w).reg y = s.reg y := rfl
@[simp] theorem setDt_reg (b : Byte) (y : Nibble) : (s.setDt b).reg y = s.reg y := rfl
@[simp] theorem setSt_reg (b : Byte) (y : Nibble) : (s.setSt b).reg y = s.reg y := rfl
@[simp] theorem push_reg (w : Word) (y : Nibble) : (s.push w).reg y = s.reg y := rfl
@[simp] theorem pop_reg (y : Nibble) : (s.pop).reg y = s.reg y := rfl
@[simp] theorem nextDraw_reg (y : Nibble) : (s.nextDraw).reg y = s.reg y := rfl
@[simp] theorem draw_reg (f : Screen) (y : Nibble) : (s.draw f).reg y = s.reg y := rfl
@[simp] theorem jump_reg (w : Word) (y : Nibble) : (s.jump w).reg y = s.reg y := rfl
@[simp] theorem fallThrough_reg (y : Nibble) : (s.fallThrough).reg y = s.reg y := rfl
@[simp] theorem skipIf_reg (c : Bool) (y : Nibble) : (s.skipIf c).reg y = s.reg y := rfl
@[simp] theorem beginStep_reg (y : Nibble) : (s.beginStep).reg y = s.reg y := rfl
@[simp] theorem reportUnknown_reg (w : Word) (y : Nibble) : (s.reportUnknown w).reg y = s.reg y := rfl
@[simp] theorem takeFault_reg (f : Fault) (y : Nibble) : (s.takeFault f).reg y = s.reg y := rfl
@[simp] theorem setKey_reg (k : Nibble) (b : Bool) (y : Nibble) : (s.setKey k b).reg y = s.reg y := rfl
@[simp] theorem setMem_stackEntry (m : Memory) (j : Nibble) : (s.setMem m).stackEntry j = s.stackEntry j := rfl
@[simp] theorem setReg_stackEntry (x : Nibble) (b : Byte) (j : Nibble) : (s.setReg x b).stackEntry j = s.stackEntry j := rfl
@[simp] theorem setV_stackEntry (v : Vector Byte 16) (j : Nibble) : (s.setV v).stackEntry j = s.stackEntry j := rfl
@[simp] theorem setI_stackEntry (w : Word) (j : Nibble) : (s.setI w).stackEntry j = s.stackEntry j := rfl
@[simp] theorem setDt_stackEntry (b : Byte) (j : Nibble) : (s.setDt b).stackEntry j = s.stackEntry j := rfl
@[simp] theorem setSt_stackEntry (b : Byte) (j : Nibble) : (s.setSt b).stackEntry j = s.stackEntry j := rfl
@[simp] theorem pop_stackEntry (j : Nibble) : (s.pop).stackEntry j = s.stackEntry j := rfl
@[simp] theorem nextDraw_stackEntry (j : Nibble) : (s.nextDraw).stackEntry j = s.stackEntry j := rfl
@[simp] theorem draw_stackEntry (f : Screen) (j : Nibble) : (s.draw f).stackEntry j = s.stackEntry j := rfl
@[simp] theorem jump_stackEntry (w : Word) (j : Nibble) : (s.jump w).stackEntry j = s.stackEntry j := rfl
@[simp] theorem fallThrough_stackEntry (j : Nibble) : (s.fallThrough).stackEntry j = s.stackEntry j := rfl
@[simp] theorem skipIf_stackEntry (c : Bool) (j : Nibble) : (s.skipIf c).stackEntry j = s.stackEntry j := rfl
@[simp] theorem setFlagThenReg_stackEntry (f : Bool) (x : Nibble) (r : Byte) (j : Nibble) : (s.setFlagThenReg f x r).stackEntry j = s.stackEntry j := rfl
@[simp] theorem beginStep_stackEntry (j : Nibble) : (s.beginStep).stackEntry j = s.stackEntry j := rfl
@[simp] theorem reportUnknown_stackEntry (w : Word) (j : Nibble) : (s.reportUnknown w).stackEntry j = s.stackEntry j := rfl
@[simp] theorem takeFault_stackEntry (f : Fault) (j : Nibble) : (s.takeFault f).stackEntry j = s.stackEntry j := rfl
@[simp] theorem setKey_stackEntry (k : Nibble) (b : Bool) (j : Nibble) : (s.setKey k b).stackEntry j = s.stackEntry j := rfl
@[simp] theorem setMem_key (m : Memory) (j : Nibble) : (s.setMem m).key j = s.key j := rfl
@[simp] theorem setReg_key (x : Nibble) (b : Byte) (j : Nibble) : (s.setReg x b).key j = s.key j := rfl
@[simp] theorem setV_key (v : Vector Byte 16) (j : Nibble) : (s.setV v).key j = s.key j := rfl
@[simp] theorem setI_key (w : Word) (j : Nibble) : (s.setI w).key j = s.key j := rfl
@[simp] theorem setDt_key (b : Byte) (j : Nibble) : (s.setDt b).key j = s.key j := rfl
@[simp] theorem setSt_key (b : Byte) (j : Nibble) : (s.setSt b).key j = s.key j := rfl
@[simp] theorem push_key (w : Word) (j : Nibble) : (s.push w).key j = s.key j := rfl
@[simp] theorem pop_key (j : Nibble) : (s.pop).key j = s.key j := rfl
@[simp] theorem nextDraw_key (j : Nibble) : (s.nextDraw).key j = s.key j := rfl
@[simp] theorem draw_key (f : Screen) (j : Nibble) : (s.draw f).key j = s.key j := rfl
@[simp] theorem jump_key (w : Word) (j : Nibble) : (s.jump w).key j = s.key j := rfl
@[simp] theorem fallThrough_key (j : Nibble) : (s.fallThrough).key j = s.key j := rfl
@[simp] theorem skipIf_key (c : Bool) (j : Nibble) : (s.skipIf c).key j = s.key j := rfl
@[simp] theorem setFlagThenReg_key (f : Bool) (x : Nibble) (r : Byte) (j : Nibble) : (s.setFlagThenReg f x r).key j = s.key j := rfl
@[simp] theorem beginStep_key (j : Nibble) : (s.beginStep).key j = s.key j := rfl
@[simp] theorem reportUnknown_key (w : Word) (j : Nibble) : (s.reportUnknown w).key j = s.key j := rfl
@[simp] theorem takeFault_key (f : Fault) (j : Nibble) : (s.takeFault f).key j = s.key j := rfl
@[simp] theorem setReg_read (x : Nibble) (b : Byte) (a : Nat) : (s.setReg x b).read a = s.read a := rfl
@[simp] theorem setV_read (v : Vector Byte 16) (a : Nat) : (s.setV v).read a = s.read a := rfl
@[simp] theorem setI_read (w : Word) (a : Nat) : (s.setI w).read a = s.read a := rfl
@[simp] theorem setDt_read (b : Byte) (a : Nat) : (s.setDt b).read a = s.read a := rfl
@[simp] theorem setSt_read (b : Byte) (a : Nat) : (s.setSt b).read a = s.read a := rfl
@[simp] theorem push_read (w : Word) (a : Nat) : (s.push w).read a = s.read a := rfl
@[simp] theorem pop_read (a : Nat) : (s.pop).read a = s.read a := rfl
@[simp] theorem nextDraw_read (a : Nat) : (s.nextDraw).read a = s.read a := rfl
@[simp] theorem draw_read (f : Screen) (a : Nat) : (s.draw f).read a = s.read a := rfl
@[simp] theorem jump_read (w : Word) (a : Nat) : (s.jump w).read a = s.read a := rfl
@[simp] theorem fallThrough_read (a : Nat) : (s.fallThrough).read a = s.read a := rfl
@[simp] theorem skipIf_read (c : Bool) (a : Nat) : (s.skipIf c).read a = s.read a := rfl
@[simp] theorem setFlagThenReg_read (f : Bool) (x : Nibble) (r : Byte) (a : Nat) : (s.setFlagThenReg f x r).read a = s.read a := rfl
@[simp] theorem beginStep_read (a : Nat) : (s.beginStep).read a = s.read a := rfl
@[simp] theorem reportUnknown_read (w : Word) (a : Nat) : (s.reportUnknown w).read a = s.read a := rfl
@[simp] theorem takeFault_read (f : Fault) (a : Nat) : (s.takeFault f).read a = s.read a := rfl
@[simp] theorem setKey_read (k : Nibble) (b : Bool) (a : Nat) : (s.setKey k b).read a = s.read a := rfl

/-- A register reads back what was written to it, and the others keep their values (spec/10_state.md R11). -/
theorem setReg_reg (x y : Nibble) (b : Byte) : (s.setReg x b).reg y = if x = y then b else s.reg y := by
  simp [State.reg, Vector.getElem_set, BitVec.toNat_inj]

@[simp] theorem setReg_reg_self (x : Nibble) (b : Byte) : (s.setReg x b).reg x = b := by simp [setReg_reg]

/-- The result stands in register `x`, the flag in VF when `x` is not VF (spec/42_alu.md R133). -/
theorem setFlagThenReg_reg (f : Bool) (x y : Nibble) (r : Byte) :
    (s.setFlagThenReg f x r).reg y = if x = y then r else if VF = y then flagByte f else s.reg y := by
  simp [setFlagThenReg, setReg_reg]

/-- A call writes the entry at SP and no other (spec/10_state.md R15). -/
theorem push_stackEntry (w : Word) (k : Nibble) :
    (s.push w).stackEntry k = if s.sp = k then w else s.stackEntry k := by
  simp [State.stackEntry, Vector.getElem_set, BitVec.toNat_inj]

/-- The host writes one key and no other (spec/10_state.md R28). -/
theorem setKey_key (k j : Nibble) (b : Bool) : (s.setKey k b).key j = if k = j then b else s.key j := by
  simp [State.key, Vector.getElem_set, BitVec.toNat_inj]

/-- Two register files with the same registers are the same. -/
theorem regs_ext {s t : State} (h : ∀ x : Nibble, t.reg x = s.reg x) : t.v = s.v := by
  refine Vector.ext fun i hi => ?_
  simpa [State.reg, Nat.mod_eq_of_lt hi] using h (BitVec.ofNat 4 i)

end Sys2Proof.Machine.State
end

