-- ==== Sys2Proof/Laws/Memory.lean ====
section
/-! SUPPORT. The laws of memory: a read after a write, and that every operation keeps the canonical form. -/

namespace Sys2Proof.Machine.Memory

/-! ### Reads -/

@[simp] theorem read_nil (a : Nat) : Memory.read [] a = unlisted a := rfl

theorem read_erase (m : Memory) (a c : Nat) : (m.erase a).read c = if c = a then unlisted a else m.read c := by
  induction m with
  | nil => by_cases h : c = a <;> simp [erase, read, h]
  | cons e rest ih =>
    obtain ⟨k, b⟩ := e
    rw [erase, List.filter_cons] at *
    by_cases hk : k = a
    · subst hk
      by_cases hc : c = k <;> simp_all [read]
    · by_cases hc : c = a
      · subst hc
        have : c ≠ k := fun h => hk h.symm
        simp_all [read]
      · simp_all [read]

theorem read_insert (m : Memory) (a c : Nat) (b : Byte) : (m.insert a b).read c = if c = a then b else m.read c := by
  induction m with
  | nil => simp [insert, read]
  | cons e rest ih =>
    obtain ⟨k, d⟩ := e
    simp only [insert]
    split
    · simp [read]
    · split
      · rename_i h; subst h
        by_cases hc : c = a <;> simp [read, hc]
      · rename_i h
        simp only [read, ih]
        by_cases hc : c = k
        · have : c ≠ a := by omega
          simp [hc, show k ≠ a by omega]
        · simp [hc]

/-- A write is seen by a read of its address and by no other (spec/20_memory.md R41, R46). -/
theorem read_write (m : Memory) (a c : Nat) (b : Byte) : (m.write a b).read c = if c = a then b else m.read c := by
  rw [write]
  split
  · rename_i h; subst h; exact read_erase ..
  · exact read_insert ..

/-- A store of consecutive bytes is seen by reads inside it and by no other. -/
theorem read_store (m : Memory) (base c : Nat) (bs : List Byte) :
    (m.store base bs).read c = if base ≤ c then (bs[c - base]?).getD (m.read c) else m.read c := by
  induction bs generalizing m base with
  | nil => simp [store]
  | cons b bs ih =>
    rw [store, ih, read_write]
    by_cases h1 : base + 1 ≤ c
    · have : c - base = (c - (base + 1)) + 1 := by omega
      simp [h1, show base ≤ c by omega, show c ≠ base by omega, this]
    · by_cases h2 : c = base
      · subst h2; simp
      · simp [h1, h2, show ¬ base ≤ c by omega]

/-- Outside the stored bytes a store changes nothing. -/
theorem read_store_outside (m : Memory) (base c : Nat) (bs : List Byte) (h : c < base ∨ base + bs.length ≤ c) :
    (m.store base bs).read c = m.read c := by
  rw [read_store]
  split
  · rw [List.getElem?_eq_none (by omega)]; rfl
  · rfl

/-! ### The canonical form -/

/-- The two halves of the canonical form. -/
theorem wf_iff (m : Memory) :
    m.wf = true ↔ m.Pairwise (fun p q => p.1 < q.1) ∧
      ∀ c ∈ m, c.1 < Config.memSize ∧ c.2 ≠ unlisted c.1 := by
  have h : ∀ m : Memory, m.rising = true ↔ m.Pairwise (fun p q => p.1 < q.1) := by
    intro m
    induction m with
    | nil => simp [rising]
    | cons e rest ih =>
      cases rest with
      | nil => simp [rising]
      | cons e' rest' =>
        obtain ⟨a, x⟩ := e
        obtain ⟨b, y⟩ := e'
        simp only [rising, Bool.and_eq_true, decide_eq_true_eq, ih, List.pairwise_cons, List.mem_cons]
        constructor
        · rintro ⟨hab, hb, hr⟩
          refine ⟨fun c hc => ?_, hb, hr⟩
          rcases hc with rfl | hc
          · exact hab
          · exact hab.trans (hb c hc)
        · rintro ⟨ha, hb, hr⟩
          exact ⟨ha (b, y) (.inl rfl), hb, hr⟩
  simp [wf, h, List.all_eq_true]

@[simp] theorem wf_nil : wf [] = true := rfl

theorem mem_insert {m : Memory} {a : Nat} {b : Byte} {e : Host.Cell} (h : e ∈ m.insert a b) : e = (a, b) ∨ e ∈ m := by
  induction m with
  | nil => simpa [insert] using h
  | cons d rest ih =>
    obtain ⟨k, c⟩ := d
    simp only [insert] at h
    split at h
    · simpa using h
    · split at h <;> simp only [List.mem_cons] at h ⊢
      · tauto
      · rcases h with h | h
        · exact .inr (.inl h)
        · rcases ih h with h | h <;> tauto

theorem insert_rising {m : Memory} (a : Nat) (b : Byte) (h : m.Pairwise (fun p q => p.1 < q.1)) :
    (m.insert a b).Pairwise (fun p q => p.1 < q.1) := by
  induction m with
  | nil => simp [insert]
  | cons d rest ih =>
    obtain ⟨k, c⟩ := d
    obtain ⟨hk, hr⟩ := List.pairwise_cons.1 h
    simp only [insert]
    split
    · rename_i hak
      refine List.pairwise_cons.2 ⟨fun e he => ?_, h⟩
      rcases List.mem_cons.1 he with rfl | he
      · exact hak
      · exact hak.trans (hk e he)
    · split
      · rename_i hak; subst hak
        exact List.pairwise_cons.2 ⟨hk, hr⟩
      · refine List.pairwise_cons.2 ⟨fun e he => ?_, ih hr⟩
        rcases mem_insert he with rfl | he
        · show k < a; omega
        · exact hk e he

/-- A write inside memory keeps the canonical form. -/
theorem write_wf {m : Memory} {a : Nat} (b : Byte) (ha : a < Config.memSize) (h : m.wf = true) : (m.write a b).wf = true := by
  rw [wf_iff] at h ⊢
  rw [write]
  split
  · exact ⟨h.1.filter _, fun c hc => h.2 c (List.mem_of_mem_filter hc)⟩
  · rename_i hb
    refine ⟨insert_rising a b h.1, fun c hc => ?_⟩
    rcases mem_insert hc with rfl | hc
    · exact ⟨ha, hb⟩
    · exact h.2 c hc

/-- A store of consecutive bytes inside memory keeps the canonical form. -/
theorem store_wf {m : Memory} {base : Nat} (bs : List Byte) (hb : base + bs.length ≤ Config.memSize) (h : m.wf = true) :
    (m.store base bs).wf = true := by
  induction bs generalizing m base with
  | nil => exact h
  | cons b bs ih =>
    simp only [List.length_cons] at hb
    exact ih (by omega) (write_wf b (by omega) h)

/-! Equal memories are equal data: two canonical memories that read alike are the same list. -/

/-- An address that no entry lists reads its reset contents. -/
theorem read_of_not_mem {m : Memory} {a : Nat} (h : ∀ c ∈ m, c.1 ≠ a) : m.read a = unlisted a := by
  induction m with
  | nil => rfl
  | cons e rest ih =>
    obtain ⟨k, b⟩ := e
    have hk : a ≠ k := fun h' => h (k, b) (by simp) h'.symm
    simp only [read, hk, if_false]
    exact ih fun c hc => h c (by simp [hc])

theorem ext_of_wf {m m' : Memory} (h : m.wf = true) (h' : m'.wf = true) (hr : ∀ a, m.read a = m'.read a) : m = m' := by
  rw [wf_iff] at h h'
  induction m generalizing m' with
  | nil =>
    cases m' with
    | nil => rfl
    | cons e rest =>
      obtain ⟨k, b⟩ := e
      exact absurd (by simpa [read] using (hr k).symm) (h'.2 (k, b) (by simp)).2
  | cons e rest ih =>
    obtain ⟨k, b⟩ := e
    obtain ⟨hk, hp⟩ := List.pairwise_cons.1 h.1
    cases m' with
    | nil => exact absurd (by simpa [read] using hr k) (h.2 (k, b) (by simp)).2
    | cons e' rest' =>
      obtain ⟨k', b'⟩ := e'
      obtain ⟨hk', hp'⟩ := List.pairwise_cons.1 h'.1
      have low : ∀ {r : Memory} {j : Nat}, (∀ c ∈ r, j < c.1) → ∀ a, a ≤ j → Memory.read r a = unlisted a :=
        fun hj a ha => read_of_not_mem fun c hc => by have := hj c hc; omega
      have hkk : k = k' := by
        rcases Nat.lt_trichotomy k k' with hlt | heq | hgt
        · have h1 := hr k
          rw [read, read, if_pos rfl, if_neg (by omega), low hk' k (by omega)] at h1
          exact absurd h1 (h.2 (k, b) (by simp)).2
        · exact heq
        · have h1 := hr k'
          rw [read, read, if_pos rfl, if_neg (by omega), low hk k' (by omega)] at h1
          exact absurd h1.symm (h'.2 (k', b') (by simp)).2
      subst hkk
      have hbb : b = b' := by simpa [read] using hr k
      subst hbb
      congr 1
      refine ih ⟨hp, fun c hc => h.2 c (by simp [hc])⟩ ⟨hp', fun c hc => h'.2 c (by simp [hc])⟩ fun a => ?_
      by_cases ha : a = k
      · subst ha
        rw [low hk a (by omega), low hk' a (by omega)]
      · simpa [read, ha] using hr a

end Sys2Proof.Machine.Memory
end

