-- ==== Sys2Proof/Laws/Operations.lean ====
section
/-! SUPPORT. For each shared operation one lemma that says everything it can do: the checks of a transfer and of a key index, the
register transfers, the drawn sprite, the decoder's verdicts and the step. -/

namespace Sys2Proof.Machine

/-! ### Checks -/

theorem outOfRange_iff (s : State) (len : Nat) :
    s.outOfRange len = true ↔ 0 < len ∧ 0x1000 < s.i.toNat + len := by
  rw [State.outOfRange, Bool.and_eq_true, decide_eq_true_eq, decide_eq_true_eq, State.effAddr]
  omega

theorem withTransfer_inRange {s : State} {len : Nat} (done : State) (h : len = 0 ∨ s.i.toNat + len ≤ 0x1000) :
    s.withTransfer len done = .next done := by
  rw [State.withTransfer, if_neg]
  rw [outOfRange_iff]; omega

theorem withTransfer_outOfRange {s : State} {len : Nat} (done : State) (h0 : 0 < len) (h : 0x1000 < s.i.toNat + len) :
    s.withTransfer len done = .fault (.addressFault (max s.i.toNat 0x1000)) := by
  rw [State.withTransfer, if_pos ((outOfRange_iff ..).2 ⟨h0, h⟩)]; rfl

/-- A checked transfer completes in the state it was given, inside memory, or faults. -/
theorem withTransfer_cases (s : State) (len : Nat) (done : State) :
    (s.withTransfer len done = .next done ∧ (len = 0 ∨ s.i.toNat + len ≤ 0x1000)) ∨
    (s.withTransfer len done = .fault (.addressFault (max s.i.toNat 0x1000)) ∧ 0 < len ∧ 0x1000 < s.i.toNat + len) := by
  by_cases h : len = 0 ∨ s.i.toNat + len ≤ 0x1000
  · exact .inl ⟨withTransfer_inRange done h, h⟩
  · exact .inr ⟨withTransfer_outOfRange done (by omega) (by omega), by omega, by omega⟩

theorem withKeyIndex_cases (a : Byte) (done : State) :
    (State.withKeyIndex a done = .next done ∧ a.toNat ≤ 15) ∨
    (State.withKeyIndex a done = .fault (.keyIndexFault a.toNat) ∧ 15 < a.toNat) := by
  rw [State.withKeyIndex]
  split
  · exact .inr ⟨rfl, ‹_›⟩
  · exact .inl ⟨rfl, by omega⟩

/-! ### Register transfers -/

theorem regsUpTo_length (s : State) (x : Nibble) : (s.regsUpTo x).length = x.toNat + 1 := by
  have := x.isLt
  simp only [State.regsUpTo, List.length_take, Vector.length_toList]
  omega

/-- Byte `k` of a store of V0 to Vx is `V[k]`. -/
theorem regsUpTo_getElem? (s : State) (x k : Nibble) (h : k.toNat ≤ x.toNat) :
    (s.regsUpTo x)[k.toNat]? = some (s.reg k) := by
  have := k.isLt
  rw [State.regsUpTo, List.getElem?_take, if_pos (by omega)]
  simp [State.reg]

theorem loadRegs_getElem (m : Memory) (i0 n : Nat) (v : Vector Byte 16) (k : Nat) (hk : k < 16) :
    (loadRegs m i0 n v)[k] = if k < n then m.read (i0 + k) else v[k] := by
  induction n with
  | zero => simp [loadRegs]
  | succ n ih =>
    rw [loadRegs, Vector.getElem_setIfInBounds, ih]
    by_cases h : n = k
    · subst h; simp
    · have : k < n + 1 ↔ k < n := by omega
      simp [h, this]

/-- A load of V0 to Vx writes these registers from memory and no other. -/
theorem setV_loadRegs_reg (s : State) (m : Memory) (i0 n : Nat) (k : Nibble) :
    (s.setV (loadRegs m i0 n s.v)).reg k = if k.toNat < n then m.read (i0 + k.toNat) else s.reg k := by
  simp only [State.reg, State.setV_v, loadRegs_getElem]

/-! ### Screen and sprite -/

theorem Screen.cell_toggle (f : Screen) (x x' : Column) (y y' : RowNo) :
    (f.toggle x y).cell x' y' = (f.cell x' y' ^^ decide (x' = x ∧ y' = y)) := by
  simp only [Screen.cell, Screen.toggle, Vector.getElem_set]
  by_cases hy : y = y'
  · subst hy
    have hx : x'.val < 64 := x'.isLt
    simp only [if_true, BitVec.getLsbD_xor, BitVec.getLsbD_twoPow, and_true]
    congr 1
    rw [Bool.eq_iff_iff]
    simp only [Bool.and_eq_true, decide_eq_true_eq, Fin.ext_iff]
    omega
  · have : y.val ≠ y'.val := fun h => hy (Fin.ext h)
    simp [this, show ¬ y' = y from fun h => hy h.symm]

@[simp] theorem Screen.cell_clear (x : Column) (y : RowNo) : Screen.clear.cell x y = false := by
  simp [Screen.cell, Screen.clear]

/-- Two framebuffers with the same cells are the same. -/
theorem Screen.ext_cells {f g : Screen} (h : ∀ x y, f.cell x y = g.cell x y) : f = g := by
  refine Vector.ext fun y hy => BitVec.eq_of_getLsbD_eq fun x hx => ?_
  exact h ⟨x, hx⟩ ⟨y, hy⟩

/-- Sprite bit `c` of a row byte lights column `x`, among the first `k` columns. -/
def rowLit (byte a : Byte) (k : Nat) (x : Column) : Prop :=
  ∃ c, c < k ∧ spriteBit byte c = true ∧ column a c = x

/-- The first `n` rows of the sprite at `i0` light the cell (x, y). -/
def spriteLit (m : Memory) (i0 : Nat) (a b : Byte) (n : Nat) (x : Column) (y : RowNo) : Prop :=
  ∃ r, r < n ∧ rowLit (m.read (i0 + r)) a 8 x ∧ row b r = y

/-- The eight columns of a sprite row are distinct (spec/44_display.md R152 (1)). -/
theorem column_inj {a : Byte} {c d : Nat} (hc : c < 8) (hd : d < 8) (h : column a c = column a d) : c = d := by
  have := congrArg Fin.val h
  simp only [column, Fin.ofNat] at this
  omega

/-- The rows of a sprite are distinct (R152 (1)). -/
theorem row_inj {b : Byte} {r q : Nat} (hr : r < 16) (hq : q < 16) (h : row b r = row b q) : r = q := by
  have := congrArg Fin.val h
  simp only [row, Fin.ofNat] at this
  omega

theorem Canvas.plot_screen (c : Canvas) (x : Column) (y : RowNo) :
    (c.plot x y).screen = c.screen.toggle x y := rfl

theorem Canvas.plot_hit (c : Canvas) (x : Column) (y : RowNo) :
    (c.plot x y).hit = (c.hit || c.screen.cell x y) := rfl

/-- What the first `k` bits of a sprite row do to the cells and to the collision. -/
theorem Canvas.bits_spec (a byte : Byte) (y : RowNo) (c : Canvas) (k : Nat) (hk : k ≤ 8) :
    (∀ x y', (((List.range k).foldl (Canvas.bit a y byte) c).screen.cell x y' = true ↔
      (c.screen.cell x y' = true ↔ ¬ (y' = y ∧ rowLit byte a k x)))) ∧
    (((List.range k).foldl (Canvas.bit a y byte) c).hit = true ↔
      (c.hit = true ∨ ∃ x, rowLit byte a k x ∧ c.screen.cell x y = true)) := by
  induction k with
  | zero => simp [rowLit]
  | succ k ih =>
    obtain ⟨ihs, ihh⟩ := ih (by omega)
    rw [List.range_succ, List.foldl_append]
    generalize hd : (List.range k).foldl (Canvas.bit a y byte) c = d at ihs ihh
    simp only [List.foldl_cons, List.foldl_nil, Canvas.bit]
    have fresh : ¬ rowLit byte a k (column a k) := fun ⟨e, he, _, hx⟩ => by
      have := column_inj (by omega) (by omega) hx; omega
    by_cases hb : spriteBit byte k = true
    · have grow : ∀ x, rowLit byte a (k + 1) x ↔ rowLit byte a k x ∨ x = column a k := by
        intro x
        constructor
        · rintro ⟨e, he, h1, h2⟩
          by_cases hek : e = k
          · subst hek; exact .inr h2.symm
          · exact .inl ⟨e, by omega, h1, h2⟩
        · rintro (⟨e, he, h⟩ | rfl)
          · exact ⟨e, by omega, h⟩
          · exact ⟨k, by omega, hb, rfl⟩
      rw [if_pos hb, Canvas.plot_screen, Canvas.plot_hit]
      constructor
      · intro x y'
        have h1 := ihs x y'
        rw [Screen.cell_toggle, grow]
        by_cases hxy : x = column a k ∧ y' = y
        · obtain ⟨rfl, rfl⟩ := hxy
          have : d.screen.cell (column a k) y' = c.screen.cell (column a k) y' := by
            rw [Bool.eq_iff_iff, h1]; simp [fresh]
          simp [this]
        · rw [decide_eq_false hxy, Bool.xor_false, h1]
          have : (y' = y ∧ (rowLit byte a k x ∨ x = column a k)) ↔ (y' = y ∧ rowLit byte a k x) := by tauto
          rw [this]
      · have : d.screen.cell (column a k) y = c.screen.cell (column a k) y := by
          rw [Bool.eq_iff_iff, ihs]; simp [fresh]
        rw [Bool.or_eq_true, ihh, this]
        constructor
        · rintro ((h | ⟨x, hx, hc⟩) | h)
          · exact .inl h
          · exact .inr ⟨x, (grow x).2 (.inl hx), hc⟩
          · exact .inr ⟨_, (grow _).2 (.inr rfl), h⟩
        · rintro (h | ⟨x, hx, hc⟩)
          · exact .inl (.inl h)
          · rcases (grow x).1 hx with hx | rfl
            · exact .inl (.inr ⟨x, hx, hc⟩)
            · exact .inr hc
    · have same : ∀ x, rowLit byte a (k + 1) x ↔ rowLit byte a k x := by
        intro x
        constructor
        · rintro ⟨e, he, h1, h2⟩
          by_cases hek : e = k
          · subst hek; exact absurd h1 hb
          · exact ⟨e, by omega, h1, h2⟩
        · rintro ⟨e, he, h⟩; exact ⟨e, by omega, h⟩
      rw [if_neg hb]
      simp only [same]
      exact ⟨ihs, ihh⟩

/-- WHAT A SPRITE DOES (R151, R152 (2)): a cell that the sprite lights is inverted and every other keeps its value, and there is
a hit exactly when a lit cell is lighted again. -/
theorem drawSprite_spec (m : Memory) (i0 : Nat) (a b : Byte) (n : Nat) (f : Screen) (hn : n ≤ 16) :
    (∀ x y, ((drawSprite m i0 a b n f).screen.cell x y = true ↔
      (f.cell x y = true ↔ ¬ spriteLit m i0 a b n x y))) ∧
    ((drawSprite m i0 a b n f).hit = true ↔ ∃ x y, spriteLit m i0 a b n x y ∧ f.cell x y = true) := by
  rw [drawSprite]
  induction n with
  | zero => simp [spriteLit]
  | succ n ih =>
    obtain ⟨ihs, ihh⟩ := ih (by omega)
    rw [List.range_succ, List.foldl_append]
    generalize (List.range n).foldl (Canvas.row a b m i0) ⟨f, false⟩ = d at ihs ihh
    simp only [List.foldl_cons, List.foldl_nil, Canvas.row]
    obtain ⟨hs, hh⟩ := Canvas.bits_spec a (m.read (i0 + n)) (row b n) d 8 (by omega)
    have fresh : ∀ x, ¬ spriteLit m i0 a b n x (row b n) := fun x ⟨e, he, _, hy⟩ => by
      have := row_inj (by omega) (by omega) hy; omega
    have grow : ∀ x y, spriteLit m i0 a b (n + 1) x y ↔
        spriteLit m i0 a b n x y ∨ (y = row b n ∧ rowLit (m.read (i0 + n)) a 8 x) := by
      intro x y
      constructor
      · rintro ⟨e, he, h1, h2⟩
        by_cases hen : e = n
        · subst hen; exact .inr ⟨h2.symm, h1⟩
        · exact .inl ⟨e, by omega, h1, h2⟩
      · rintro (⟨e, he, h⟩ | ⟨rfl, h⟩)
        · exact ⟨e, by omega, h⟩
        · exact ⟨n, by omega, h, rfl⟩
    have old : ∀ x, d.screen.cell x (row b n) = f.cell x (row b n) := by
      intro x; rw [Bool.eq_iff_iff, ihs]; simp [fresh]
    constructor
    · intro x y
      rw [hs, grow]
      by_cases hy : y = row b n
      · subst hy; simp [old, fresh]
      · simp only [hy, false_and, not_false_eq_true, iff_true, or_false]; exact ihs x y
    · rw [hh, ihh]
      simp only [old]
      constructor
      · rintro (⟨x, y, hl, hc⟩ | ⟨x, hl, hc⟩)
        · exact ⟨x, y, (grow x y).2 (.inl hl), hc⟩
        · exact ⟨x, row b n, (grow x _).2 (.inr ⟨rfl, hl⟩), hc⟩
      · rintro ⟨x, y, hl, hc⟩
        rcases (grow x y).1 hl with hl' | ⟨rfl, hl'⟩
        · exact .inl ⟨x, y, hl', hc⟩
        · exact .inr ⟨x, hl', hc⟩

/-! ### Keys -/

theorem mem_pressed (s : State) (k : Nibble) : k ∈ s.pressed ↔ s.key k = true := by
  have : ∀ k : Nibble, k ∈ keyIndices := by decide
  simp [State.pressed, this]

theorem chosenKey_mem (s : State) (k : Nibble) (ks : List Nibble) : s.chosenKey k ks ∈ k :: ks :=
  List.getElem_mem _

/-! ### The step -/

/-- A word decodes to an instruction, or to `Unknown` with the word itself (R64). -/
theorem decode_cases (w : Word) : (∃ i, decode w = .instr i) ∨ decode w = .unknown w := by
  rw [decode]
  split <;> first
    | exact .inl ⟨_, rfl⟩
    | exact .inr rfl
    | (simp only [decodeZ, decode5, decode9, decodeE, decodeF]; repeat' split) <;>
        first | exact .inl ⟨_, rfl⟩ | exact .inr rfl
    | (rw [decode8]; split) <;> first | exact .inl ⟨_, rfl⟩ | exact .inr rfl

/-- The word at PC. -/
abbrev State.wordAtPc (s : State) : Word := bigEndian (s.read s.pc.toNat) (s.read (s.pc.toNat + 1))

theorem beginStep_fetchWord (s : State) :
    s.beginStep.fetchWord = if s.pc.toNat ≤ 0xFFE then some s.wordAtPc else none := rfl

/-- WHAT A STEP CAN DO: it is not enabled, or the fetch faults, or the decoded instruction runs on the state after phases (a)
and (b), or the unknown word is reported. -/
theorem step_cases (s : State) :
    (s.status ≠ .running ∧ step s = .fault .notEnabled) ∨
    (s.status = .running ∧ 0xFFE < s.pc.toNat ∧ step s = .fault (.addressFault s.pc.toNat)) ∨
    (s.status = .running ∧ s.pc.toNat ≤ 0xFFE ∧ ∃ i, decode s.wordAtPc = .instr i ∧ step s = exec i s.beginStep) ∨
    (s.status = .running ∧ s.pc.toNat ≤ 0xFFE ∧ decode s.wordAtPc = .unknown s.wordAtPc ∧
      step s = .next (s.beginStep.reportUnknown s.wordAtPc)) := by
  rw [step]
  cases hst : s.status with
  | faulted c n => exact .inl ⟨nofun, rfl⟩
  | running =>
    by_cases hpc : s.pc.toNat ≤ 0xFFE
    · simp only [beginStep_fetchWord, if_pos hpc]
      rcases decode_cases s.wordAtPc with ⟨i, hi⟩ | hi
      · exact .inr (.inr (.inl ⟨trivial, hpc, i, hi, by rw [hi]⟩))
      · exact .inr (.inr (.inr ⟨trivial, hpc, hi, by rw [hi]⟩))
    · simp only [beginStep_fetchWord, if_neg hpc]
      exact .inr (.inl ⟨trivial, by omega, rfl⟩)

end Sys2Proof.Machine
end

