-- ==== Sys2Proof/Laws/PerInstr.lean ====
section
/-! SUPPORT. The per-instruction family RowMatch: the word of an instruction matches the row of table R65 that stands for it, and its
format's mask leaves exactly the fixed bits (spec/30_encoding.md R62, R64, R65). -/

namespace Sys2Proof.Laws.RowMatch

/-- The row of table R65 under the instruction's mnemonic matches the instruction's word. -/
def Statement (i : Instr) : Prop := ∃ r ∈ opcodeTable, r.mnemonic = i.mnemonic ∧ r.matchesWord (encode i) = true

/-- A row of the table whose mask leaves the row's value of the instruction's word. -/
theorem of_row {i : Instr} (r : Row) (hr : r ∈ opcodeTable) (hn : r.mnemonic = i.mnemonic) {v : Word}
    (h : encode i &&& r.mask = v) (hv : v = r.value) : Statement i :=
  ⟨r, hr, hn, by rw [Row.matchesWord, h, hv, beq_self_eq_true]⟩

theorem cls : Statement .cls := of_row (v := 0x00E0) ⟨"CLS", 0x00E0, 0xFFFF⟩ (by decide) rfl rfl rfl
theorem ret : Statement .ret := of_row (v := 0x00EE) ⟨"RET", 0x00EE, 0xFFFF⟩ (by decide) rfl rfl rfl
theorem jp (nnn : Addr12) : Statement (.jp nnn) := of_row ⟨"JP_nnn", 0x1000, 0xF000⟩ (by decide) rfl (encodeA_fixed ..) rfl
theorem call (nnn : Addr12) : Statement (.call nnn) := of_row ⟨"CALL_nnn", 0x2000, 0xF000⟩ (by decide) rfl (encodeA_fixed ..) rfl
theorem seImm (x : Nibble) (nn : Byte) : Statement (.seImm x nn) := of_row ⟨"SE_Vx__nn", 0x3000, 0xF000⟩ (by decide) rfl (encodeXI_fixed ..) rfl
theorem sneImm (x : Nibble) (nn : Byte) : Statement (.sneImm x nn) := of_row ⟨"SNE_Vx__nn", 0x4000, 0xF000⟩ (by decide) rfl (encodeXI_fixed ..) rfl
theorem seReg (x y : Nibble) : Statement (.seReg x y) := of_row ⟨"SE_Vx__Vy", 0x5000, 0xF00F⟩ (by decide) rfl (encodeXYN_fixed_low ..) rfl
theorem ldImm (x : Nibble) (nn : Byte) : Statement (.ldImm x nn) := of_row ⟨"LD_Vx__nn", 0x6000, 0xF000⟩ (by decide) rfl (encodeXI_fixed ..) rfl
theorem addImm (x : Nibble) (nn : Byte) : Statement (.addImm x nn) := of_row ⟨"ADD_Vx__nn", 0x7000, 0xF000⟩ (by decide) rfl (encodeXI_fixed ..) rfl
theorem ldReg (x y : Nibble) : Statement (.ldReg x y) := of_row ⟨"LD_Vx__Vy", 0x8000, 0xF00F⟩ (by decide) rfl (encodeXYN_fixed_low ..) rfl
theorem orReg (x y : Nibble) : Statement (.orReg x y) := of_row ⟨"OR_Vx__Vy", 0x8001, 0xF00F⟩ (by decide) rfl (encodeXYN_fixed_low ..) rfl
theorem andReg (x y : Nibble) : Statement (.andReg x y) := of_row ⟨"AND_Vx__Vy", 0x8002, 0xF00F⟩ (by decide) rfl (encodeXYN_fixed_low ..) rfl
theorem xorReg (x y : Nibble) : Statement (.xorReg x y) := of_row ⟨"XOR_Vx__Vy", 0x8003, 0xF00F⟩ (by decide) rfl (encodeXYN_fixed_low ..) rfl
theorem addReg (x y : Nibble) : Statement (.addReg x y) := of_row ⟨"ADD_Vx__Vy", 0x8004, 0xF00F⟩ (by decide) rfl (encodeXYN_fixed_low ..) rfl
theorem subReg (x y : Nibble) : Statement (.subReg x y) := of_row ⟨"SUB_Vx__Vy", 0x8005, 0xF00F⟩ (by decide) rfl (encodeXYN_fixed_low ..) rfl
theorem shr (x y : Nibble) : Statement (.shr x y) := of_row ⟨"SHR_Vx", 0x8006, 0xF00F⟩ (by decide) rfl (encodeXYN_fixed_low ..) rfl
theorem subnReg (x y : Nibble) : Statement (.subnReg x y) := of_row ⟨"SUBN_Vx__Vy", 0x8007, 0xF00F⟩ (by decide) rfl (encodeXYN_fixed_low ..) rfl
theorem shl (x y : Nibble) : Statement (.shl x y) := of_row ⟨"SHL_Vx", 0x800E, 0xF00F⟩ (by decide) rfl (encodeXYN_fixed_low ..) rfl
theorem sneReg (x y : Nibble) : Statement (.sneReg x y) := of_row ⟨"SNE_Vx__Vy", 0x9000, 0xF00F⟩ (by decide) rfl (encodeXYN_fixed_low ..) rfl
theorem ldI (nnn : Addr12) : Statement (.ldI nnn) := of_row ⟨"LD_I__nnn", 0xA000, 0xF000⟩ (by decide) rfl (encodeA_fixed ..) rfl
theorem jpV0 (nnn : Addr12) : Statement (.jpV0 nnn) := of_row ⟨"JP_V0__nnn", 0xB000, 0xF000⟩ (by decide) rfl (encodeA_fixed ..) rfl
theorem rnd (x : Nibble) (nn : Byte) : Statement (.rnd x nn) := of_row ⟨"RND_Vx__nn", 0xC000, 0xF000⟩ (by decide) rfl (encodeXI_fixed ..) rfl
theorem drw (x y n : Nibble) : Statement (.drw x y n) := of_row ⟨"DRW_Vx__Vy__n", 0xD000, 0xF000⟩ (by decide) rfl (encodeXYN_fixed ..) rfl
theorem skp (x : Nibble) : Statement (.skp x) := of_row ⟨"SKP_Vx", 0xE09E, 0xF0FF⟩ (by decide) rfl (encodeXI_fixed_low ..) rfl
theorem sknp (x : Nibble) : Statement (.sknp x) := of_row ⟨"SKNP_Vx", 0xE0A1, 0xF0FF⟩ (by decide) rfl (encodeXI_fixed_low ..) rfl
theorem ldVxDt (x : Nibble) : Statement (.ldVxDt x) := of_row ⟨"LD_Vx__DT", 0xF007, 0xF0FF⟩ (by decide) rfl (encodeXI_fixed_low ..) rfl
theorem ldVxK (x : Nibble) : Statement (.ldVxK x) := of_row ⟨"LD_Vx__K", 0xF00A, 0xF0FF⟩ (by decide) rfl (encodeXI_fixed_low ..) rfl
theorem ldDtVx (x : Nibble) : Statement (.ldDtVx x) := of_row ⟨"LD_DT__Vx", 0xF015, 0xF0FF⟩ (by decide) rfl (encodeXI_fixed_low ..) rfl
theorem ldStVx (x : Nibble) : Statement (.ldStVx x) := of_row ⟨"LD_ST__Vx", 0xF018, 0xF0FF⟩ (by decide) rfl (encodeXI_fixed_low ..) rfl
theorem addI (x : Nibble) : Statement (.addI x) := of_row ⟨"ADD_I__Vx", 0xF01E, 0xF0FF⟩ (by decide) rfl (encodeXI_fixed_low ..) rfl
theorem ldF (x : Nibble) : Statement (.ldF x) := of_row ⟨"LD_F__Vx", 0xF029, 0xF0FF⟩ (by decide) rfl (encodeXI_fixed_low ..) rfl
theorem ldB (x : Nibble) : Statement (.ldB x) := of_row ⟨"LD_B__Vx", 0xF033, 0xF0FF⟩ (by decide) rfl (encodeXI_fixed_low ..) rfl
theorem ldMemVx (x : Nibble) : Statement (.ldMemVx x) := of_row ⟨"LD__I___Vx", 0xF055, 0xF0FF⟩ (by decide) rfl (encodeXI_fixed_low ..) rfl
theorem ldVxMem (x : Nibble) : Statement (.ldVxMem x) := of_row ⟨"LD_Vx___I", 0xF065, 0xF0FF⟩ (by decide) rfl (encodeXI_fixed_low ..) rfl

end Sys2Proof.Laws.RowMatch
end

