-- ==== Sys2Proof/Tests/Slice0.lean ====
section
/-! SUPPORT. The model's own tests: the checks of WellFormed refuse ill-formed terms; every constructor decodes from a word of
spec/95_test_vectors.md 2.1; single steps on the vectors S and T of spec/95_test_vectors.md, which give the expected results; and for
each statement with hypotheses a witness that meets them. -/

namespace Sys2Proof.Tests

open Machine Claims

/-! ### WellFormed: each check refuses -/

/-- Rule R66's examples and one word of every family that has unknown words. -/
theorem test_ill_formed_words :
    ([0x0000, 0x00E1, 0x0123, 0x5121, 0x512F, 0x8128, 0x812D, 0x812F, 0x9121, 0xE100, 0xE19F, 0xF100, 0xF175, 0xF185, 0xFFFF].all
      fun w => !wordWellFormed w) = true := by rfl

theorem test_well_formed_words :
    ([0x00E0, 0x10E0, 0x5120, 0x812E, 0xE1A1, 0xF165].all fun w => wordWellFormed w) = true := by rfl

/-- T132, T133: 3584 bytes fit and 3585 do not. -/
theorem test_image_limit (b : Byte) :
    imageWellFormed (List.replicate 3584 b) = true ∧ imageWellFormed (List.replicate 3585 b) = false := by
  simp only [imageWellFormed, List.length_replicate, Config.progMax]; exact ⟨rfl, rfl⟩

/-! ### Decoding: words of spec/95_test_vectors.md 2.1, one for each constructor -/

theorem test_decode_flow :
    decode 0x00EE = .instr .ret ∧ decode 0x10E0 = .instr (.jp 0x0E0) ∧ decode 0x2FFF = .instr (.call 0xFFF) ∧
    decode 0x3A7F = .instr (.seImm 10 0x7F) ∧ decode 0x4F00 = .instr (.sneImm 15 0) ∧ decode 0x5120 = .instr (.seReg 1 2) ∧
    decode 0x9120 = .instr (.sneReg 1 2) ∧ decode 0xBABC = .instr (.jpV0 0xABC) := by decide

theorem test_decode_alu :
    decode 0x6005 = .instr (.ldImm 0 5) ∧ decode 0x7003 = .instr (.addImm 0 3) ∧ decode 0x8120 = .instr (.ldReg 1 2) ∧
    decode 0x8121 = .instr (.orReg 1 2) ∧ decode 0x8122 = .instr (.andReg 1 2) ∧ decode 0x8123 = .instr (.xorReg 1 2) ∧
    decode 0x8124 = .instr (.addReg 1 2) ∧ decode 0x8125 = .instr (.subReg 1 2) ∧ decode 0x8126 = .instr (.shr 1 2) ∧
    decode 0x8127 = .instr (.subnReg 1 2) ∧ decode 0x812E = .instr (.shl 1 2) ∧ decode 0xC7F0 = .instr (.rnd 7 0xF0) := by decide

theorem test_decode_index_display :
    decode 0xA123 = .instr (.ldI 0x123) ∧ decode 0xF11E = .instr (.addI 1) ∧ decode 0xF129 = .instr (.ldF 1) ∧
    decode 0xF133 = .instr (.ldB 1) ∧ decode 0xF155 = .instr (.ldMemVx 1) ∧ decode 0xF165 = .instr (.ldVxMem 1) ∧
    decode 0x00E0 = .instr .cls ∧ decode 0xD123 = .instr (.drw 1 2 3) := by decide

theorem test_decode_keys_timers :
    decode 0xE19E = .instr (.skp 1) ∧ decode 0xE1A1 = .instr (.sknp 1) ∧ decode 0xF107 = .instr (.ldVxDt 1) ∧
    decode 0xF10A = .instr (.ldVxK 1) ∧ decode 0xF115 = .instr (.ldDtVx 1) ∧ decode 0xF118 = .instr (.ldStVx 1) := by decide

theorem test_decode_unknown :
    decode 0x00FE = .unknown 0x00FE ∧ decode 0x512F = .unknown 0x512F ∧ decode 0x8128 = .unknown 0x8128 ∧
    decode 0x9121 = .unknown 0x9121 ∧ decode 0xE19F = .unknown 0xE19F ∧ decode 0xF185 = .unknown 0xF185 := by decide

/-- A byte sequence: the first instruction and the rest; one byte is none. -/
theorem test_decode_bytes :
    decodeBytes [0x60, 0x05, 0x70] = (.instr (.ldImm 0 5), [0x70]) ∧ decodeBytes [0x60] = (.truncated, []) := by decide

/-- The host's numbering: bit 0 is the least significant bit of the word, and the high byte is fetched first. -/
theorem test_table_word :
    decodeTableWord 16 0x812E = some (.shl 1 2) ∧ decodeTableWord 16 0x5121 = none ∧
    (State.reset.withFetchWord 16 0x812E).read 0x200 = 0x81 ∧ (State.reset.withFetchWord 16 0x812E).read 0x201 = 0x2E := by decide

/-! ### Single steps: the vectors of spec/95_test_vectors.md -/

/-- The state after reset with bytes placed at `a`. -/
def placed (a : Nat) (bytes : List Byte) : State := State.reset.setMem (Memory.store [] a bytes)

/-- The state after reset with one word at 0x200. -/
def word (w : Word) : State := placed 0x200 [highByte w, lowByte w]

/-- The step completes in a state with the property. -/
def gives (s : State) (p : State → Bool) : Bool :=
  match step s with
  | .next t => p t
  | _ => false

/-- The step ends with the fault. -/
def stops (s : State) (f : Fault) : Bool :=
  match step s with
  | .fault e => decide (e = f)
  | _ => false

/-- A state with V0 and V1. -/
def v01 (a b : Byte) (s : State) : State := (s.setReg 0 a).setReg 1 b

/-- The values of Vx and VF after a step. -/
def xf (x : Nibble) (a f : Byte) (t : State) : Bool := decide (t.reg x = a ∧ t.reg VF = f)

/-- T2: an unknown word is reported, the timers tick, DRAW_READY is cleared. -/
theorem test_unknown_word :
    gives { word 0x5121 with dt := 3, st := 1, drawReady := true } (fun t => decide (t.pc = 0x202 ∧ t.dt = 2 ∧ t.st = 0 ∧
      t.drawReady = false ∧ t.report = some (.unknownOpcode 0x5121 0x200) ∧ t.v = State.reset.v)) = true := by decide

/-- T3: an odd PC is legal. -/
theorem test_odd_pc :
    gives ((placed 0x201 [0x60, 0x2A]).jump 0x201) (fun t => decide (t.reg 0 = 0x2A ∧ t.pc = 0x203)) = true := by decide

/-- T5: the last fetchable address falls through to 0x1000. T6: 0xFFF cannot be fetched from. -/
theorem test_fetch_limit :
    gives ((placed 0xFFE [0x6A, 0x01]).jump 0xFFE) (fun t => decide (t.reg 10 = 1 ∧ t.pc = 0x1000)) = true ∧
    stops (State.reset.jump 0x1000) (.addressFault 0x1000) = true ∧ stops (State.reset.jump 0xFFF) (.addressFault 0xFFF) = true := by
  decide

/-- T6: a faulting step keeps nothing but STATUS, the phases (a) and (b) included. -/
theorem test_fault_keeps_nothing :
    (State.apply .step { State.reset.jump 0xFFF with dt := 9, drawReady := true }) =
      some { State.reset.jump 0xFFF with dt := 9, drawReady := true, status := .faulted .addressFault 0xFFF } := by decide

/-- T11. -/
theorem test_jp : gives (word 0x1204) (fun t => decide (t.pc = 0x204 ∧ t.sp = 0)) = true := by decide

/-- T13: a call at SP = 15 wraps. -/
theorem test_call :
    gives { word 0x2300 with sp := 15 } (fun t => decide (t.stackEntry 15 = 0x202 ∧ t.sp = 0 ∧ t.pc = 0x300)) = true := by decide

/-- T16: a return with no call. T15: a return keeps the entry. -/
theorem test_ret :
    gives (word 0x00EE) (fun t => decide (t.sp = 15 ∧ t.pc = 0)) = true ∧
    gives { (word 0x00EE).push 0x206 with pc := 0x200 } (fun t => decide (t.sp = 0 ∧ t.pc = 0x206 ∧ t.stackEntry 0 = 0x206)) = true := by
  decide

/-- S3. -/
theorem test_seImm : gives (word 0x3000) (·.pc == 0x204) = true ∧ gives (word 0x3001) (·.pc == 0x202) = true := by decide

/-- T20, T21. -/
theorem test_sneImm :
    gives (v01 0 5 (word 0x4100)) (·.pc == 0x204) = true ∧ gives (word 0x4100) (·.pc == 0x202) = true := by decide

/-- T22, T23. -/
theorem test_seReg :
    gives (v01 7 7 (word 0x5010)) (·.pc == 0x204) = true ∧ gives (v01 7 8 (word 0x5010)) (·.pc == 0x202) = true := by decide

/-- T25, T26. -/
theorem test_sneReg :
    gives (v01 7 8 (word 0x9010)) (·.pc == 0x204) = true ∧ gives (v01 7 8 (word 0x9110)) (·.pc == 0x202) = true := by decide

/-- T28, T29: the sum is not reduced, and the register is V0. -/
theorem test_jpV0 :
    gives (v01 0xFF 0 (word 0xBFFF)) (·.pc == 0x10FE) = true ∧ gives ((word 0xB5FF).setReg 5 0xFF) (·.pc == 0x5FF) = true := by
  decide

/-- T40, T42: no carry flag. -/
theorem test_loads :
    gives (word 0x6AFF) (xf 10 0xFF 0) = true ∧ gives ((v01 0 1 (word 0x71FF)).setReg VF 9) (xf 1 0 9) = true ∧
    gives ((word 0x8120).setReg 2 0x33) (xf 1 0x33 0) = true := by decide

/-- T45 to T47: VF is not written. -/
theorem test_logic :
    gives ((v01 0xF0 0x0F (word 0x8011)).setReg VF 1) (xf 0 0xFF 1) = true ∧
    gives ((v01 0xF0 0x3C (word 0x8012)).setReg VF 1) (xf 0 0x30 1) = true ∧
    gives ((v01 0xF0 0x3C (word 0x8013)).setReg VF 1) (xf 0 0xCC 1) = true := by decide

/-- T49, T57: carry, and the result stands in VF. -/
theorem test_addReg :
    gives (v01 0xFF 1 (word 0x8014)) (xf 0 0 1) = true ∧ gives (v01 0xFE 1 (word 0x8014)) (xf 0 0xFF 0) = true ∧
    gives ((v01 0 4 (word 0x8F14)).setReg VF 3) (xf VF 7 7) = true ∧ gives ((v01 0 1 (word 0x8F14)).setReg VF 0xFF) (xf VF 0 0) = true := by
  decide

/-- T50, T59. -/
theorem test_subReg :
    gives (v01 1 2 (word 0x8015)) (xf 0 0xFF 0) = true ∧ gives (v01 0x33 0x33 (word 0x8015)) (xf 0 0 1) = true ∧
    gives ((v01 0 3 (word 0x8F15)).setReg VF 5) (xf VF 2 2) = true := by decide

/-- T51, T60: Vy is not used. -/
theorem test_shr :
    gives (v01 0xFF 0x55 (word 0x8016)) (xf 0 0x7F 1) = true ∧ gives (v01 0x80 0x55 (word 0x8016)) (xf 0 0x40 0) = true ∧
    gives ((word 0x8F06).setReg VF 7) (xf VF 3 3) = true := by decide

/-- T52, T61. -/
theorem test_subnReg :
    gives (v01 2 1 (word 0x8017)) (xf 0 0xFF 0) = true ∧ gives (v01 1 2 (word 0x8017)) (xf 0 1 1) = true ∧
    gives ((v01 0 5 (word 0x8F17)).setReg VF 2) (xf VF 3 3) = true := by decide

/-- T53, T62. -/
theorem test_shl :
    gives (v01 0x80 0xAA (word 0x801E)) (xf 0 0 1) = true ∧ gives (v01 0x55 0xAA (word 0x801E)) (xf 0 0xAA 0) = true ∧
    gives ((word 0x8F0E).setReg VF 0x41) (xf VF 0x82 0x82) = true := by decide

/-- T65: whatever the draw, a mask of 0 gives 0. -/
theorem test_rnd : ∃ t, step (word 0xC200) = .next t ∧ t.reg 2 = 0 ∧ t.pc = 0x202 :=
  ⟨(word 0xC200).beginStep.nextDraw.setReg 2 ((word 0xC200).beginStep.drawnByte &&& 0) |>.fallThrough, rfl, by simp, rfl⟩

/-- T70, T73, T76. -/
theorem test_index :
    gives ((word 0xA300).setI 0xFFFF) (·.i == 0x300) = true ∧ gives ((v01 1 0 (word 0xF01E)).setI 0xFFFF) (·.i == 0) = true ∧
    gives (v01 0xFF 0 (word 0xF029)) (·.i == 0x4FB) = true := by decide

/-- T78, T79: the highest I of `Fx33`, and one above it. -/
theorem test_ldB :
    gives ((v01 0xFF 0 (word 0xF033)).setI 0xFFD) (fun t => decide (t.read 0xFFD = 2 ∧ t.read 0xFFE = 5 ∧ t.read 0xFFF = 5)) = true ∧
    stops ((word 0xF033).setI 0xFFE) (.addressFault 0x1000) = true := by decide

/-- T80. T83: no byte is written by a store that faults. -/
theorem test_ldMemVx :
    gives ((v01 0x12 0x08 (word 0xF155)).setI 0x208)
      (fun t => decide (t.read 0x208 = 0x12 ∧ t.read 0x209 = 8 ∧ t.read 0x20A = 0 ∧ t.i = 0x208)) = true ∧
    stops ((v01 0xAA 0 (word 0xFF55)).setI 0xFF8) (.addressFault 0x1000) = true := by decide

/-- T84, T85. -/
theorem test_ldVxMem :
    gives (((placed 0x300 [2, 0, 1]).withFetchWord 16 0xF265 |>.setReg 3 0x44).setI 0x300)
      (fun t => decide (t.reg 0 = 2 ∧ t.reg 1 = 0 ∧ t.reg 2 = 1 ∧ t.reg 3 = 0x44 ∧ t.i = 0x300)) = true ∧
    stops ((word 0xF065).setI 0x1000) (.addressFault 0x1000) = true := by decide

/-- T91: clearing a clear screen sets DRAW_READY. -/
theorem test_cls :
    gives { word 0x00E0 with fb := State.reset.fb.set 31 5 } (fun t => decide (t.fb = State.reset.fb ∧ t.drawReady = true)) = true := by
  decide

/-- T104: a sprite over the corner wraps at both edges; in the flat framebuffer the host reads, cells 2046, 2047, 62 and 5. -/
theorem test_drw_wraps :
    gives ((v01 62 31 ((placed 0x20E [0xC0, 0x81]).withFetchWord 16 0xD012)).setI 0x20E)
      (fun t => t.hostPixel 2046 && t.hostPixel 2047 && t.hostPixel 62 && t.hostPixel 5 && !t.hostPixel 1 &&
        decide (t.reg VF = 0 ∧ t.drawReady = true ∧ t.fb[31] = 0xC000000000000000 ∧ t.fb[0] = 0x4000000000000020)) = true := by
  decide

/-- T97: a collision. T101: n = 1 at 0x1000 faults; T100: n = 0 does not. -/
theorem test_drw_collision :
    gives { ((placed 0x300 [0xC0]).withFetchWord 16 0xD011).setI 0x300 with fb := State.reset.fb.set 0 1 }
      (fun t => decide (t.fb[0] = 2 ∧ t.reg VF = 1)) = true ∧
    stops ((word 0xD001).setI 0x1000) (.addressFault 0x1000) = true ∧
    gives (((word 0xD000).setI 0x1000).setReg VF 9) (fun t => decide (t.reg VF = 0 ∧ t.drawReady = true)) = true := by decide

/-- T110, T114, T115. -/
theorem test_skp :
    gives ((v01 15 0 (word 0xE09E)).setKey 15 true) (·.pc == 0x204) = true ∧ gives (v01 7 0 (word 0xE09E)) (·.pc == 0x202) = true ∧
    stops (v01 16 0 (word 0xE09E)) (.keyIndexFault 16) = true := by decide

/-- T112, T113, T116. -/
theorem test_sknp :
    gives ((v01 7 0 (word 0xE0A1)).setKey 7 true) (·.pc == 0x202) = true ∧ gives (v01 7 0 (word 0xE0A1)) (·.pc == 0x204) = true ∧
    stops (v01 0xFF 0 (word 0xE0A1)) (.keyIndexFault 255) = true := by decide

/-- T117: the timer is read after its tick. T120, T122: and set after it. -/
theorem test_timers :
    gives { word 0xF307 with dt := 5 } (fun t => decide (t.reg 3 = 4 ∧ t.dt = 4)) = true ∧
    gives (v01 0 31 { word 0xF115 with dt := 200 }) (·.dt == 31) = true ∧
    gives ({ (word 0xF218).setReg 2 2 with st := 9 }) (·.st == 2) = true := by decide

/-- T123: waiting holds PC while the timers tick. T124: one key. -/
theorem test_ldVxK :
    gives { v01 0x33 0 (word 0xF00A) with dt := 2 } (fun t => decide (t.pc = 0x200 ∧ t.reg 0 = 0x33 ∧ t.dt = 1)) = true ∧
    gives ((word 0xF00A).setKey 7 true) (fun t => decide (t.reg 0 = 7 ∧ t.pc = 0x202)) = true := by decide

/-- S9, T135: a loaded program runs from reset, and a later load only overlays memory. -/
theorem test_load_runs :
    State.applyAll [.load [0x60, 0x05, 0x70, 0x03], .step, .load [0x60, 0x09], .step] State.reset =
      some { ((placed 0x200 [0x60, 0x09, 0x70, 0x03]).setReg 0 8) with pc := 0x204 } := by decide

/-- T133, T134: a faulted machine runs again after a reset. -/
theorem test_reset_revives :
    State.apply .step { State.reset with status := .faulted .loadError 3585 } = none ∧
    (State.applyAll [.reset, .step] { State.reset with status := .faulted .loadError 3585, sp := 3 }).isSome = true := by decide

/-! ### Witnesses: for each statement with hypotheses, a state and operands that meet them all, clause by clause at boundary values -/

theorem of_gives {s : State} {p : State → Bool} (h : gives s p = true) : ∃ t, step s = .next t ∧ p t = true := by
  rw [gives] at h
  split at h
  · exact ⟨_, ‹_›, h⟩
  · cases h

theorem of_stops {s : State} {f : Fault} (h : stops s f = true) : step s = .fault f := by
  rw [stops] at h
  split at h
  · rw [‹step s = _›, of_decide_eq_true h]
  · cases h

theorem witness_EncodeInvertsDecode : decode 0xD123 = .instr (.drw 1 2 3) := by decide

theorem witness_DecodeFollowsOpcodeTable :
    (⟨"DRW_Vx__Vy__n", 0xD000, 0xF000⟩ : Row) ∈ opcodeTable ∧ (0xD123 : Word) &&& 0xF000 = 0xD000 ∧
    (opcodeTable.all fun r => decide ((0x0123 : Word) &&& r.mask ≠ r.value)) = true := by decide

/-- Both ends of the fetchable addresses of a program at 0x200. -/
theorem witness_StepRunsDecodedInstruction :
    At (word 0x6A7F) (.ldImm 10 0x7F) ∧ At ((placed 0xFFE [0x12, 0x00]).jump 0xFFE) (.jp 0x200) := by
  refine ⟨⟨rfl, ?_, ?_⟩, rfl, ?_, ?_⟩ <;> decide

theorem witness_StepReportsUnknownWord :
    (State.reset.jump 0xFFE).status = .running ∧ (State.reset.jump 0xFFE).pc.toNat ≤ 0xFFE ∧
    bigEndian ((State.reset.jump 0xFFE).read 0xFFE) ((State.reset.jump 0xFFE).read 0xFFF) = 0 ∧ decode 0 = .unknown 0 := by
  refine ⟨rfl, ?_, ?_, ?_⟩ <;> decide

theorem witness_FetchReadsBigEndianOrFaults :
    (State.reset.jump 0xFFF).status = .running ∧ 0xFFE < (State.reset.jump 0xFFF).pc.toNat ∧
    (State.reset.jump 0xFFE).status = .running ∧ (State.reset.jump 0xFFE).pc.toNat ≤ 0xFFE := by decide

/-- `F033` with I one above the highest legal value. -/
def digitsAbove : State := (word 0xF033).setI 0xFFE

/-- Each side of the two cases: a fetch above 0xFFE, and an instruction whose operands fault. -/
theorem witness_StepFaultsExactlyAsTabled :
    step (State.reset.jump 0xFFF) = .fault (.addressFault 0xFFF) ∧
    (digitsAbove.status = .running ∧ At digitsAbove (.ldB 0) ∧ operandFault digitsAbove (.ldB 0) = some (.addressFault 0x1000)) ∧
    At (v01 16 0 (word 0xE09E)) (.skp 0) ∧ operandFault (v01 16 0 (word 0xE09E)) (.skp 0) = some (.keyIndexFault 16) ∧
    operandFault ((word 0xD002).setI 0xFFF) (.drw 0 0 2) = some (.addressFault 0x1000) := by
  refine ⟨of_stops (by decide), ⟨rfl, ⟨rfl, ?_, ?_⟩, ?_⟩, ⟨rfl, ?_, ?_⟩, ?_, ?_⟩ <;> decide

theorem witness_StepOutcomesOfRunningMachine : (word 0x00E0).status = .running := rfl

theorem witness_FaultingStepKeepsAllButStatus :
    step digitsAbove = .fault (.addressFault 0x1000) ∧ step (v01 16 0 (word 0xE09E)) = .fault (.keyIndexFault 16) :=
  ⟨of_stops (by decide), of_stops (by decide)⟩

theorem witness_FaultedMachineIsStuckUntilReset :
    ({ State.reset with status := .faulted .loadError 3585 } : State).status = .faulted .loadError 3585 ∧
    HostOp.reset ∉ [HostOp.setKey 3 true] ∧
    (State.applyAll [.setKey 3 true] { State.reset with status := .faulted .loadError 3585 }).isSome = true := by
  decide

/-- A state that meets the invariant and whose step completes. -/
theorem witness_StepKeepsStateInvariant : Inv (word 0x2300) ∧ ∃ t, step (word 0x2300) = .next t ∧ true = true :=
  ⟨⟨by decide, by decide, by decide⟩, of_gives (p := fun _ => true) (by decide)⟩

theorem witness_HostRunsKeepStateInvariant :
    Inv State.reset ∧ (State.applyAll [.load [0x60, 0x05], .setKey 2 true, .step, .step, .reset] State.reset).isSome = true :=
  ⟨⟨rfl, by decide, by decide⟩, by decide⟩

theorem witness_LoadOverlaysImage (b : Byte) : State.reset.status = .running ∧ (List.replicate 3584 b).length ≤ 3584 := by
  rw [List.length_replicate]; exact ⟨rfl, le_rfl⟩

theorem witness_LoadTooLongIsRefused (b : Byte) :
    (State.reset.status = .running ∧ 3584 < (List.replicate 3585 b).length) ∧
    ({ State.reset with status := .faulted .addressFault 0xFFF } : State).status ≠ .running := by
  rw [List.length_replicate]; exact ⟨⟨rfl, by omega⟩, nofun⟩

/-- A call at the wrapping depth, and the stack it leaves. -/
theorem witness_CallThenReturnResumes :
    ∃ t, exec (.call 0x300) { word 0x2300 with sp := 15 } = .next t ∧ t.stack = t.stack ∧ t.sp = 0 := ⟨_, rfl, rfl, rfl⟩

theorem witness_DecimalStoreResult :
    (State.reset.setI 0xFFD).effAddr 2 ≤ 0xFFF ∧ 0xFFF < (State.reset.setI 0xFFE).effAddr 2 := by decide

theorem witness_RegisterStoreResult :
    (State.reset.setI 0xFF0).effAddr (15#4).toNat ≤ 0xFFF ∧ 0xFFF < (State.reset.setI 0xFF1).effAddr (15#4).toNat := by decide

theorem witness_RegisterLoadResult :
    (State.reset.setI 0xFFF).effAddr (0#4).toNat ≤ 0xFFF ∧ 0xFFF < (State.reset.setI 0x1000).effAddr (0#4).toNat := by decide

/-- The state a store leaves, and a state with that I and that memory and other registers. -/
theorem witness_StoreThenLoadRestoresRegisters :
    ∃ t, exec (.ldMemVx 2) ((v01 0x11 0x22 State.reset).setI 0x300) = .next t ∧ (v01 0 0 t).i = t.i ∧ ∀ a, (v01 0 0 t).read a = t.read a :=
  ⟨_, rfl, rfl, fun _ => rfl⟩

/-- A program that writes `00E0` over its own next word (spec/20_memory.md R53). -/
def selfModifying : State := (v01 0x00 0xE0 (word 0xF155)).setI 0x202

theorem witness_StoreIsSeenByNextFetch :
    At selfModifying (.ldMemVx 1) ∧ (∃ t, step selfModifying = .next t ∧ decide (t.pc.toNat = selfModifying.effAddr (0#4).toNat) = true) ∧
    (0#4).toNat + 1 ≤ (1#4).toNat ∧ decode (bigEndian (selfModifying.reg 0) (selfModifying.reg (0 + 1))) = .instr .cls := by
  refine ⟨⟨rfl, ?_, ?_⟩, of_gives ?_, ?_, ?_⟩ <;> decide

/-- In range with no byte, with the last byte at 0xFFF, and out of range by one. -/
theorem witness_DrawTogglesSpriteCells :
    (0#4).toNat = 0 ∧ (State.reset.setI 0xFF1).i.toNat + (15#4).toNat - 1 ≤ 0xFFF ∧
    0 < (15#4).toNat ∧ 0xFFF < (State.reset.setI 0xFF2).i.toNat + (15#4).toNat - 1 := by decide

/-- A sprite of one row at 0x300. -/
def sprited : State := (placed 0x300 [0xC0]).setI 0x300

/-- A draw, and its own result as the state of the second draw. -/
theorem witness_DrawTwiceRestoresScreen :
    ∃ t, exec (.drw 0 1 1) sprited = .next t ∧ t.fb = t.fb ∧ t.i = sprited.i ∧ (∀ a, t.read a = sprited.read a) ∧
      t.reg 0 = sprited.reg 0 ∧ t.reg 1 = sprited.reg 1 :=
  ⟨_, withTransfer_inRange (s := sprited) (len := (1#4).toNat) _ (by decide), rfl, rfl, fun _ => rfl,
    by rw [State.fallThrough_reg, State.setReg_reg, if_neg (by decide)]; rfl,
    by rw [State.fallThrough_reg, State.setReg_reg, if_neg (by decide)]; rfl⟩

/-- A completed step that draws, one that does not, and the states of the clauses about timers and frames: `00E0`, a store that
changes a byte, a register that changes, `Fx15`, `Fx18`, a call, a return, a load of I and a draw that changes the screen. -/
theorem witness_step_rules :
    (∃ t, step (word 0x00E0) = .next t ∧ t.drawReady = true) ∧ (∃ t, step (word 0x6A7F) = .next t ∧ (t.reg 10 != 0) = true) ∧
    (∃ t, step (word 0xF115) = .next t ∧ decide (t.dt = 0) = true) ∧ At (word 0xF115) (.ldDtVx 1) ∧ At (word 0xF118) (.ldStVx 1) ∧
    (∃ t, step (word 0xF118) = .next t ∧ decide (t.st = 0) = true) ∧ (∃ t, step (word 0x2300) = .next t ∧ (t.sp != 0) = true) ∧
    (∃ t, step (word 0x2300) = .next t ∧ (t.stackEntry 0 != 0) = true) ∧ (∃ t, step (word 0xA300) = .next t ∧ (t.i != 0) = true) ∧
    (∃ t, step ((v01 0xFF 0 (word 0xF033)).setI 0x300) = .next t ∧ (t.read 0x302 != 0) = true) ∧
    (∃ t, step (((placed 0x300 [0xC0]).withFetchWord 16 0xD011).setI 0x300) = .next t ∧ (t.fb[0] != 0) = true) := by
  refine ⟨of_gives (p := State.drawReady) ?_, of_gives (p := fun t => t.reg 10 != 0) ?_, of_gives (p := fun t => decide (t.dt = 0)) ?_, ⟨rfl, ?_, ?_⟩, ⟨rfl, ?_, ?_⟩,
    of_gives (p := fun t => decide (t.st = 0)) ?_, of_gives (p := fun t => t.sp != 0) ?_, of_gives (p := fun t => t.stackEntry 0 != 0) ?_,
    of_gives (p := fun t => t.i != 0) ?_, of_gives (p := fun t => t.read 0x302 != 0) ?_, of_gives (p := fun t => t.fb[0] != 0) ?_⟩ <;>
    decide

theorem witness_KeySkipResults : ((v01 15 16 State.reset).reg 0).toNat ≤ 15 ∧ 15 < ((v01 15 16 State.reset).reg 1).toNat := by decide

/-- No key, one key, two keys. -/
theorem witness_KeyWaitResult :
    (∀ k, State.reset.key k = false) ∧ (∃ k, (State.reset.setKey 15 true).key k = true) ∧
    (∀ j, (State.reset.setKey 15 true).key j = true → j = 15) ∧
    (∃ j, ((State.reset.setKey 0 true).setKey 15 true).key j = true ∧ j ≠ 15) := by
  refine ⟨?_, ⟨15, ?_⟩, ?_, ⟨0, ?_⟩⟩ <;> decide

/-- `F015`, an unknown word, `F107` (spec/45_input_timers.md R166, vector T127): one step lies between. -/
def delayProgram : State := (placed 0x200 [0xF0, 0x15, 0x00, 0x00, 0xF1, 0x07]).setReg 0 5

/-- `delayProgram` after its `F015`, and after the unknown word. -/
def delaySet : State := (delayProgram.beginStep.setDt 5).fallThrough
def delayRead : State := delaySet.beginStep.reportUnknown 0

theorem witness_DelayTimerCountsSteps :
    At delayProgram (.ldDtVx 0) ∧ step delayProgram = .next delaySet ∧ stepsWithoutFx15 1 delaySet = some delayRead ∧
    At delayRead (.ldVxDt 1) ∧ ∃ w, step delayRead = .next w ∧ decide (w.reg 1 = 3) = true := by
  have hs : step delaySet = .next delayRead := rfl
  refine ⟨⟨rfl, by decide, by decide⟩, rfl, ?_, ⟨rfl, by decide, by decide⟩, of_gives (by decide)⟩
  simp only [stepsWithoutFx15, hs]
  rw [if_neg (by decide)]

theorem witness_DrawsMatterOnlyToRandomAndKeyWait :
    (∀ x nn, Instr.ldVxK 0 ≠ .rnd x nn) ∧
    ∀ x, Instr.ldVxK 0 = .ldVxK x → ∀ j k, (State.reset.setKey 7 true).key j = true → (State.reset.setKey 7 true).key k = true → j = k :=
  ⟨nofun, fun _ _ => by decide⟩

/-- A skip, and memory that differs in the skipped slot. -/
theorem witness_StepIgnoresBytesNotFetched :
    (Memory.store [] 0x200 [0x30, 0x00, 0xFF, 0xFF]).read 0x200 = (word 0x3000).read 0x200 ∧
    (Memory.store [] 0x200 [0x30, 0x00, 0xFF, 0xFF]).read 0x201 = (word 0x3000).read 0x201 ∧
    ∀ i, At (word 0x3000) i → ¬ UsesDataPort i := by
  refine ⟨by decide, by decide, fun i hi => ?_⟩
  have h : decode (bigEndian ((word 0x3000).read (word 0x3000).pc.toNat) ((word 0x3000).read ((word 0x3000).pc.toNat + 1))) =
      .instr (.seImm 0 0) := by decide
  obtain rfl : Instr.seImm 0 0 = i := Verdict.instr.inj (h.symm.trans hi.2.2)
  exact id

theorem witness_SelfJumpStaysForEver :
    ((word 0x1200).status = .running ∧ (word 0x1200).selfJump = true) ∧
    ((placed 0xFFE [0x1F, 0xFE]).jump 0xFFE).status = .running ∧ ((placed 0xFFE [0x1F, 0xFE]).jump 0xFFE).selfJump = true := by
  decide

/-- The reset state, all the way to the top (vector T8). -/
theorem witness_ZeroedMemoryIsWalkedToTheTop :
    State.reset.status = .running ∧ (∀ a, State.reset.pc.toNat ≤ a → a ≤ 0xFFF → State.reset.read a = 0) ∧
    State.reset.pc.toNat + 2 * 1792 ≤ 0x1000 := by
  refine ⟨rfl, fun a h _ => ?_, by decide⟩
  have h' : 0x200 ≤ a := h
  show Memory.unlisted a = 0
  rw [Memory.unlisted, if_neg (by simp only [Config.fontSize]; omega)]

end Sys2Proof.Tests
end

section
/-! SUPPORT. What the meaning of an instruction can answer, said once for all 34, and the outcomes of a running machine's step. -/

namespace Sys2Proof.Machine

open Claims

/-! ### What an instruction can answer -/

/-- What no meaning touches: the host's keys (spec/10_state.md R22), STATUS (R23), and the report, which phases (a) and (b) have
emptied. -/
structure KeepsKeysStatusReport (s t : State) : Prop where
  keys   : t.keys = s.keys
  status : t.status = s.status
  report : t.report = s.report

/-- A transfer's check raises the AddressFault of table R171 under any condition that says the transfer leaves memory. -/
theorem withTransfer_eq_elim {s : State} {len : Nat} (done : State) {p : Prop} [Decidable p]
    (hp : p ↔ 0 < len ∧ 0x1000 < s.i.toNat + len) :
    s.withTransfer len done =
      (if p then some (Fault.addressFault (max s.i.toNat 0x1000)) else none).elim (.next done) raise := by
  by_cases h : p
  · obtain ⟨hlen, hout⟩ := hp.1 h
    rw [withTransfer_outOfRange done hlen hout, if_pos h]
    rfl
  · rw [withTransfer_inRange done (by rw [hp] at h; omega), if_neg h]
    rfl

/-- A key index's check raises the KeyIndexFault of table R171. -/
theorem withKeyIndex_eq_elim (a : Byte) (done : State) :
    State.withKeyIndex a done =
      (if 15 < a.toNat then some (Fault.keyIndexFault a.toNat) else none).elim (.next done) raise := by
  rw [State.withKeyIndex]
  split <;> rfl

/-- `Fx0A` completes whatever keys are pressed (spec/45_input_timers.md R163). -/
theorem execLdVxK_completes (x : Nibble) (s : State) :
    ∃ t, execLdVxK x s = .next t ∧ KeepsKeysStatusReport s t := by
  rw [execLdVxK]
  split <;> exact ⟨_, rfl, rfl, rfl, rfl⟩

/-- WHAT AN INSTRUCTION CAN ANSWER: the fault that table R171 gives its operands, and where it gives none a next state. -/
theorem exec_eq_elim_operandFault (i : Instr) (s : State) :
    ∃ t, exec i s = (operandFault s i).elim (.next t) raise ∧ KeepsKeysStatusReport s t := by
  cases i with
  | drw _ _ _ | ldB _ | ldMemVx _ | ldVxMem _ => exact ⟨_, withTransfer_eq_elim _ (by omega), rfl, rfl, rfl⟩
  | skp _ | sknp _ => exact ⟨_, withKeyIndex_eq_elim _ _, rfl, rfl, rfl⟩
  | ldVxK x => exact execLdVxK_completes x s
  | _ => exact ⟨_, rfl, rfl, rfl, rfl⟩

/-- The info of an operand fault is an address above 0xFFF or a key index above 15 (R172, R173). -/
theorem operandFault_cases {s : State} {i : Instr} {f : Fault} (h : operandFault s i = some f) :
    (∃ a, 0xFFF < a ∧ f = .addressFault a) ∨ (∃ k, 15 < k ∧ f = .keyIndexFault k) := by
  cases i with
  | drw _ _ _ | ldB _ | ldMemVx _ | ldVxMem _ =>
    obtain ⟨-, hf⟩ := Option.ite_none_right_eq_some.1 h
    exact .inl ⟨_, by omega, (Option.some.inj hf).symm⟩
  | skp _ | sknp _ =>
    obtain ⟨hk, hf⟩ := Option.ite_none_right_eq_some.1 h
    exact .inr ⟨_, hk, (Option.some.inj hf).symm⟩
  | _ => exact nomatch h

/-! ### The outcomes of a running machine's step -/

/-- Settles O10: the cases of a step, and in the case that runs an instruction the fault of its operands or its next state. -/
theorem stepOutcomesOfRunningMachine : Obligations.StepOutcomesOfRunningMachine := by
  intro s hrun
  obtain ⟨hstopped, -⟩ | ⟨-, hpc, hstep⟩ | ⟨-, hpc, i, hdec, hstep⟩ | ⟨-, -, hdec, hstep⟩ := step_cases s
  · exact absurd hrun hstopped
  · exact .inr (.inr (.inl ⟨_, hpc, hstep⟩))
  · obtain ⟨t, hexec, hkeep⟩ := exec_eq_elim_operandFault i s.beginStep
    rw [hexec] at hstep
    cases hfault : operandFault s.beginStep i with
    | none =>
      rw [hfault] at hstep
      exact .inl ⟨t, i, ⟨hrun, hpc, hdec⟩, hstep, hkeep.report⟩
    | some f =>
      rw [hfault] at hstep
      obtain ⟨a, ha, rfl⟩ | ⟨k, hk, rfl⟩ := operandFault_cases hfault
      · exact .inr (.inr (.inl ⟨a, by omega, hstep⟩))
      · exact .inr (.inr (.inr ⟨k, hk, hstep⟩))
  · refine .inr (.inl ⟨_, fun i hat => ?_, hstep, rfl⟩)
    obtain ⟨-, -, hinstr⟩ := hat
    exact nomatch hdec.symm.trans hinstr

end Sys2Proof.Machine
end

section
/-! SUPPORT. What a completed instruction leaves and what a completed step leaves, each said once, and the parts of the state that
change only by their own instructions (spec/10_state.md). -/

namespace Sys2Proof.Machine

open Claims

/-! ### What a completed instruction leaves -/

/-- WHAT A COMPLETED INSTRUCTION LEAVES of the state `s`, by the part of the state that it writes: `Completes s i t` says that `i`
leaves `t`. Where several instructions write one part, the hypothesis says which these are. -/
inductive Completes (s : State) : Instr → State → Prop where
  | writesRegs {i : Instr} (v : Vector Byte 16) (n : Nat) (hdest : ∀ k, (s.setV v).reg k ≠ s.reg k → MayWriteReg k i) :
    Completes s i { (s.setV v).fallThrough with draws := n }
  | skips {i : Instr} (c : Bool)
      (hskip : ∃ x y nn, i = .seImm x nn ∨ i = .sneImm x nn ∨ i = .seReg x y ∨ i = .sneReg x y ∨ i = .skp x ∨ i = .sknp x) :
    Completes s i (s.skipIf c)
  | jumps (nnn : Addr12) : Completes s (.jp nnn) (s.jump (addrOperand nnn))
  | jumpsFromV0 (nnn : Addr12) : Completes s (.jpV0 nnn) (s.jump (byteOperand (s.reg 0) + addrOperand nnn))
  | calls (nnn : Addr12) : Completes s (.call nnn) ((s.push (s.pc + 2)).jump (addrOperand nnn))
  | returns : Completes s .ret (s.pop.jump (s.stackEntry (s.sp - 1)))
  | setsIndex {i : Instr} (w : Word) (hindex : (∃ nnn, i = .ldI nnn) ∨ ∃ x, i = .addI x ∨ i = .ldF x) :
    Completes s i (s.setI w).fallThrough
  | setsDelay (x : Nibble) : Completes s (.ldDtVx x) (s.setDt (s.reg x)).fallThrough
  | setsSound (x : Nibble) : Completes s (.ldStVx x) (s.setSt (s.reg x)).fallThrough
  | storesDigits (x : Nibble) (hrange : s.i.toNat + 3 ≤ 0x1000) :
    Completes s (.ldB x) (s.setMem (s.mem.store s.i.toNat (decimalDigits (s.reg x)))).fallThrough
  | storesRegs (x : Nibble) (hrange : s.i.toNat + (x.toNat + 1) ≤ 0x1000) :
    Completes s (.ldMemVx x) (s.setMem (s.mem.store s.i.toNat (s.regsUpTo x))).fallThrough
  | clears : Completes s .cls (s.draw Screen.clear).fallThrough
  | draws (x y n : Nibble) (f : Screen) (b : Byte) : Completes s (.drw x y n) ((s.draw f).setReg VF b).fallThrough
  | waits (x : Nibble) (hnone : ∀ k, s.key k = false) : Completes s (.ldVxK x) s

/-- A transfer that completes lies inside memory and leaves the state it was given. -/
theorem eq_of_withTransfer_next {s done t : State} {len : Nat} (h : s.withTransfer len done = .next t) :
    t = done ∧ (len = 0 ∨ s.i.toNat + len ≤ 0x1000) := by
  obtain ⟨hnext, hrange⟩ | ⟨hfault, -⟩ := withTransfer_cases s len done
  · exact ⟨(Host.Outcome.next.inj (hnext.symm.trans h)).symm, hrange⟩
  · exact nomatch hfault.symm.trans h

/-- A key index that passes its check leaves the state that was given. -/
theorem eq_of_withKeyIndex_next {done t : State} {a : Byte} (h : State.withKeyIndex a done = .next t) : t = done := by
  obtain ⟨hnext, -⟩ | ⟨hfault, -⟩ := withKeyIndex_cases a done
  · exact (Host.Outcome.next.inj (hnext.symm.trans h)).symm
  · exact nomatch hfault.symm.trans h

/-- A write of one register changes no other. -/
theorem eq_of_setReg_reg_ne {s : State} {x k : Nibble} {b : Byte} (h : (s.setReg x b).reg k ≠ s.reg k) : k = x := by
  by_contra hk
  exact h (by rw [State.setReg_reg, if_neg (Ne.symm hk)])

/-- A write of a flag and a result changes the result's register and VF only. -/
theorem eq_or_of_setFlagThenReg_reg_ne {s : State} {f : Bool} {x k : Nibble} {b : Byte}
    (h : (s.setFlagThenReg f x b).reg k ≠ s.reg k) : k = x ∨ k = VF := by
  by_contra hk
  obtain ⟨hx, hf⟩ := not_or.1 hk
  exact h (by rw [State.setFlagThenReg_reg, if_neg (Ne.symm hx), if_neg (Ne.symm hf)])

/-- A load of V0 to Vx changes no register above Vx. -/
theorem le_of_setV_loadRegs_reg_ne {s : State} {m : Memory} {i0 : Nat} {x k : Nibble}
    (h : (s.setV (loadRegs m i0 (x.toNat + 1) s.v)).reg k ≠ s.reg k) : k.toNat ≤ x.toNat := by
  by_contra hk
  exact h (by rw [setV_loadRegs_reg, if_neg (by omega)])

/-- The set of pressed keys is empty exactly when no key is pressed. -/
theorem pressed_eq_nil_iff (s : State) : s.pressed = [] ↔ ∀ k, s.key k = false := by
  simp only [List.eq_nil_iff_forall_not_mem, mem_pressed, Bool.not_eq_true]

/-- `Fx0A` waits, or writes the one register it names. -/
theorem execLdVxK_next_completes {s t : State} {x : Nibble} (h : execLdVxK x s = .next t) : Completes s (.ldVxK x) t := by
  rw [execLdVxK] at h
  split at h <;> cases h
  · exact .waits x ((pressed_eq_nil_iff s).1 ‹_›)
  · exact .writesRegs _ _ fun _ => eq_of_setReg_reg_ne
  · exact .writesRegs _ _ fun _ => eq_of_setReg_reg_ne

/-- An instruction that completes leaves what `Completes` says, so that claims about a step need not look at its meaning again. -/
theorem exec_next_completes {i : Instr} {s t : State} (h : exec i s = .next t) : Completes s i t := by
  cases i with
  | ldImm _ _ | addImm _ _ | ldReg _ _ | orReg _ _ | andReg _ _ | xorReg _ _ | rnd _ _ | ldVxDt _ =>
    cases h
    exact .writesRegs _ _ fun _ => eq_of_setReg_reg_ne
  | addReg _ _ | subReg _ _ | shr _ _ | subnReg _ _ | shl _ _ =>
    cases h
    exact .writesRegs _ _ fun _ => eq_or_of_setFlagThenReg_reg_ne
  | ldVxMem x =>
    obtain ⟨rfl, -⟩ := eq_of_withTransfer_next h
    exact .writesRegs _ _ fun _ => le_of_setV_loadRegs_reg_ne
  | ldVxK x => exact execLdVxK_next_completes h
  | seImm x nn | sneImm x nn => cases h; exact .skips _ ⟨x, 0, nn, by simp⟩
  | seReg x y | sneReg x y => cases h; exact .skips _ ⟨x, y, 0, by simp⟩
  | skp x | sknp x =>
    obtain rfl := eq_of_withKeyIndex_next h
    exact .skips _ ⟨x, 0, 0, by simp⟩
  | jp nnn => cases h; exact .jumps nnn
  | jpV0 nnn => cases h; exact .jumpsFromV0 nnn
  | call nnn => cases h; exact .calls nnn
  | ret => cases h; exact .returns
  | ldI nnn => cases h; exact .setsIndex _ (.inl ⟨nnn, rfl⟩)
  | addI x => cases h; exact .setsIndex _ (.inr ⟨x, .inl rfl⟩)
  | ldF x => cases h; exact .setsIndex _ (.inr ⟨x, .inr rfl⟩)
  | ldDtVx x => cases h; exact .setsDelay x
  | ldStVx x => cases h; exact .setsSound x
  | ldB x =>
    obtain ⟨rfl, hrange⟩ := eq_of_withTransfer_next h
    exact .storesDigits x (by omega)
  | ldMemVx x =>
    obtain ⟨rfl, hrange⟩ := eq_of_withTransfer_next h
    exact .storesRegs x (by omega)
  | cls => cases h; exact .clears
  | drw x y n =>
    obtain ⟨rfl, -⟩ := eq_of_withTransfer_next h
    exact .draws x y n _ _

/-! ### What a completed step leaves -/

/-- WHAT A COMPLETED STEP LEAVES: the machine was running and both bytes at PC lie in memory, and either the instruction there ran
on the state after phases (a) and (b), or the word there is none and was reported. -/
theorem step_next_cases {s t : State} (h : step s = .next t) :
    s.status = .running ∧ s.pc.toNat ≤ 0xFFE ∧
      ((∃ i, At s i ∧ exec i s.beginStep = .next t) ∨
        ((∀ i, ¬ At s i) ∧ t = s.beginStep.reportUnknown s.wordAtPc)) := by
  obtain ⟨-, hstep⟩ | ⟨-, -, hstep⟩ | ⟨hrun, hpc, i, hdec, hstep⟩ | ⟨hrun, hpc, hdec, hstep⟩ := step_cases s
  · exact nomatch hstep.symm.trans h
  · exact nomatch hstep.symm.trans h
  · exact ⟨hrun, hpc, .inl ⟨i, ⟨hrun, hpc, hdec⟩, hstep.symm.trans h⟩⟩
  · refine ⟨hrun, hpc, .inr ⟨fun i hat => ?_, (Host.Outcome.next.inj (hstep.symm.trans h)).symm⟩⟩
    obtain ⟨-, -, hinstr⟩ := hat
    exact nomatch hdec.symm.trans hinstr

/-- The bytes at PC decode to one instruction only. -/
theorem at_unique {s : State} {i j : Instr} (hi : At s i) (hj : At s j) : i = j := by
  obtain ⟨-, -, hdeci⟩ := hi
  obtain ⟨-, -, hdecj⟩ := hj
  exact Verdict.instr.inj (hdeci.symm.trans hdecj)

/-- The instruction at PC is the one that a completed step ran. -/
theorem exec_of_step_next {s t : State} {i : Instr} (hat : At s i) (h : step s = .next t) : exec i s.beginStep = .next t := by
  obtain ⟨-, -, ⟨j, hj, hexec⟩ | ⟨hnone, -⟩⟩ := step_next_cases h
  · rwa [at_unique hat hj]
  · exact absurd hat (hnone i)

/-! ### The invariant -/

@[simp] theorem addrOperand_toNat (nnn : Addr12) : (addrOperand nnn).toNat = nnn.toNat :=
  BitVec.toNat_setWidth_of_le (by decide)

@[simp] theorem byteOperand_toNat (b : Byte) : (byteOperand b).toNat = b.toNat := BitVec.toNat_setWidth_of_le (by decide)

/-- A PC moves on by at most `d`, wrapped or not. -/
theorem toNat_add_le {w : Word} {n : Nat} (d : Word) (h : w.toNat ≤ n) : (w + d).toNat ≤ n + d.toNat := by
  rw [BitVec.toNat_add]
  exact (Nat.mod_le _ _).trans (Nat.add_le_add_right h _)

/-- The target of `Bnnn` is the plain sum: it cannot wrap (spec/41_flow.md R107). -/
theorem byteOperand_add_addrOperand_toNat (b : Byte) (nnn : Addr12) :
    (byteOperand b + addrOperand nnn).toNat = b.toNat + nnn.toNat := by
  have hb := b.isLt
  have hn := nnn.isLt
  rw [BitVec.toNat_add, addrOperand_toNat, byteOperand_toNat]
  exact Nat.mod_eq_of_lt (by omega)

/-- The invariant speaks of memory, PC and the stack only: with memory and stack as they were, the bound of PC is all there is to
show. -/
theorem inv_of_pc_le {s t : State} (hs : Inv s) (hpc : t.pc.toNat ≤ 0x10FE) (hmem : t.mem = s.mem := by rfl)
    (hstack : t.stack = s.stack := by rfl) : Inv t := by
  obtain ⟨hwf, -, hret⟩ := hs
  exact ⟨hmem ▸ hwf, hpc, fun k => by simpa only [State.stackEntry, hstack] using hret k⟩

/-- A store of bytes that lie inside memory keeps the invariant. -/
theorem inv_store {s : State} (hs : Inv s) (base : Nat) (bs : List Byte) (h : base + bs.length ≤ 0x1000) :
    Inv (s.setMem (s.mem.store base bs)) := by
  obtain ⟨hwf, hpc, hret⟩ := hs
  exact ⟨Memory.store_wf bs h hwf, hpc, hret⟩

/-- An instruction fetched at or below 0xFFE moves PC at most to 0x10FE, pushes at most 0x1000, and stores inside memory. -/
theorem Completes.keeps_inv {i : Instr} {s t : State} (hc : Completes s i t) (hs : Inv s) (hpc : s.pc.toNat ≤ 0xFFE) : Inv t := by
  have htwo : (s.pc + 2).toNat ≤ 0x1000 := toNat_add_le 2 hpc
  cases hc with
  | writesRegs _ _ _ | setsIndex _ _ | setsDelay _ | setsSound _ | clears | draws _ _ _ _ _ =>
    exact inv_of_pc_le hs (htwo.trans (by decide))
  | skips c _ =>
    have hfour : (s.pc + 4).toNat ≤ 0x1002 := toNat_add_le 4 hpc
    refine inv_of_pc_le hs ?_
    rw [State.skipIf_pc]
    split <;> omega
  | jumps nnn => exact inv_of_pc_le hs (by simp; omega)
  | jumpsFromV0 nnn =>
    refine inv_of_pc_le hs ?_
    rw [State.jump_pc, byteOperand_add_addrOperand_toNat]
    omega
  | calls nnn =>
    obtain ⟨hwf, -, hret⟩ := hs
    refine ⟨hwf, by simp; omega, fun k => ?_⟩
    rw [State.jump_stackEntry, State.push_stackEntry]
    split
    · exact htwo
    · exact hret k
  | returns =>
    have ⟨_, _, hret⟩ := hs
    exact inv_of_pc_le hs ((hret _).trans (by decide))
  | storesDigits x hrange => exact inv_of_pc_le (inv_store hs _ (decimalDigits (s.reg x)) hrange) (htwo.trans (by decide))
  | storesRegs x hrange =>
    exact inv_of_pc_le (inv_store hs _ (s.regsUpTo x) (by rwa [regsUpTo_length])) (htwo.trans (by decide))
  | waits _ _ => exact hs

/-- Settles O13: each part that an instruction can write keeps the invariant, and phases (a) and (b) write none of it. -/
theorem stepKeepsStateInvariant : Obligations.StepKeepsStateInvariant := by
  intro s t hs hstep
  obtain ⟨hrun, hpc, ⟨i, hat, hexec⟩ | ⟨-, rfl⟩⟩ := step_next_cases hstep
  · exact (exec_next_completes hexec).keeps_inv (inv_of_pc_le hs (hpc.trans (by decide))) hpc
  · exact inv_of_pc_le hs ((toNat_add_le 2 hpc).trans (by decide))

/-- Settles O14: no byte is listed, PC is 0x200 and every entry is 0. -/
theorem resetMeetsStateInvariant : Obligations.ResetMeetsStateInvariant :=
  ⟨Memory.wf_nil, by decide, fun k => by simp [State.stackEntry, State.reset]⟩

/-- A load keeps the invariant: an image that fits is stored inside memory, and any other writes STATUS only. -/
theorem inv_load {s : State} (hs : Inv s) (image : List Byte) : Inv (s.load image) := by
  rw [State.load]
  split
  · rename_i hfit
    simp only [imageWellFormed, Config.progMax, decide_eq_true_eq] at hfit
    exact inv_store hs _ image (by simp only [Config.progBase]; omega)
  · exact hs

/-- Every host operation keeps the invariant. -/
theorem apply_keeps_inv {op : HostOp} {s t : State} (hs : Inv s) (h : s.apply op = some t) : Inv t := by
  cases op with
  | reset => cases h; exact resetMeetsStateInvariant
  | setKey k b => cases h; exact hs
  | load image =>
    obtain ⟨-, hload⟩ := Option.ite_none_right_eq_some.1 h
    cases hload
    exact inv_load hs image
  | step =>
    rw [State.apply] at h
    split at h <;> cases h
    · exact stepKeepsStateInvariant s t hs ‹_›
    · exact hs

/-- Settles O15, by induction on the operations of the run. -/
theorem hostRunsKeepStateInvariant : Obligations.HostRunsKeepStateInvariant := by
  intro ops
  induction ops with
  | nil => intro s t hs h; cases h; exact hs
  | cons op ops ih =>
    intro s t hs h
    rw [State.applyAll] at h
    split at h
    · exact ih _ t (apply_keeps_inv hs ‹_›) h
    · cases h

/-! ### A faulted machine -/

/-- R89: in a faulted state a step is not enabled. -/
theorem apply_step_of_faulted {s : State} {c : Cause} {n : Nat} (h : s.status = .faulted c n) : s.apply .step = none := by
  have hstep : step s = .fault .notEnabled := by rw [step, h]; rfl
  rw [State.apply, hstep]

/-- R203: in a faulted state a load is not enabled. -/
theorem apply_load_of_faulted {s : State} {c : Cause} {n : Nat} (h : s.status = .faulted c n) (image : List Byte) :
    s.apply (.load image) = none := by
  rw [State.apply, if_neg (by rw [h]; nofun)]

/-- Without a reset a faulted machine can be given keys only. -/
theorem applyAll_of_faulted {c : Cause} {n : Nat} {t : State} :
    ∀ (ops : List HostOp) (s : State), s.status = .faulted c n → HostOp.reset ∉ ops → s.applyAll ops = some t →
      t = { s with keys := t.keys }
  | [], s, _, _, h => by cases h; rfl
  | op :: ops, s, hfaulted, hops, h => by
    rw [State.applyAll] at h
    cases op with
    | reset => exact absurd List.mem_cons_self hops
    | step => rw [apply_step_of_faulted hfaulted] at h; cases h
    | load image => rw [apply_load_of_faulted hfaulted] at h; cases h
    | setKey k b => exact applyAll_of_faulted ops (s.setKey k b) hfaulted (fun hmem => hops (List.mem_cons_of_mem _ hmem)) h

/-- Settles O12: neither `step` nor `load` is enabled, so a run without a reset sets keys and does nothing else. -/
theorem faultedMachineIsStuckUntilReset : Obligations.FaultedMachineIsStuckUntilReset := by
  intro s c n hfaulted
  exact ⟨apply_step_of_faulted hfaulted, apply_load_of_faulted hfaulted,
    fun ops _ => applyAll_of_faulted ops s hfaulted, _, rfl, rfl⟩

/-! ### Reset and keys -/

/-- Every element of table R27 has its value in the reset state, whatever the draw counter. -/
theorem resetTable_hostReset (s : State) : ResetTable s.hostReset := by
  refine ⟨fun x => ?_, rfl, rfl, rfl, fun k => ?_, rfl, rfl, fun a ha => ?_, fun a ha _ => ?_, fun c r => ?_, rfl, fun k => ?_, rfl⟩
  · simp [State.reg, State.hostReset, State.reset]
  · simp [State.stackEntry, State.hostReset, State.reset]
  · exact if_pos ha
  · exact if_neg (Nat.not_lt.2 ha)
  · exact Screen.cell_clear c r
  · simp [State.key, State.hostReset, State.reset]

/-- Settles O16: power-on gives the state that a host reset of it gives. -/
theorem resetGivesTableValues : Obligations.ResetGivesTableValues :=
  ⟨resetTable_hostReset State.reset, fun s => ⟨_, rfl, resetTable_hostReset s⟩⟩

/-- Settles O19: in every state, a faulted one too (notes/assumptions/13.md). -/
theorem setKeyWritesOneKey : Obligations.SetKeyWritesOneKey := by
  intro s k b
  refine ⟨s.setKey k b, rfl, ?_, fun j hj => ?_, rfl⟩
  · rw [State.setKey_key, if_pos rfl]
  · rw [State.setKey_key, if_neg (Ne.symm hj)]

/-! ### Call and return -/

/-- Settles O23: the return decrements SP to the call's own, where the call put the address after it. -/
theorem callThenReturnResumes : Obligations.CallThenReturnResumes := by
  intro s t u nnn hcall hstack hsp
  cases hcall
  have hback : u.sp - 1 = s.sp := by rw [hsp]; exact BitVec.add_sub_cancel s.sp 1
  have hentry : u.stackEntry s.sp = s.pc + 2 := by
    rw [State.stackEntry, hstack]
    exact (State.push_stackEntry ..).trans (if_pos rfl)
  refine ⟨_, rfl, ?_, hback⟩
  show (u.stackEntry (u.sp - 1)).toNat = (s.pc.toNat + 2) % 65536
  rw [hback, hentry, BitVec.toNat_add]
  rfl

/-! ### What changes only by its own instructions -/

/-- Settles O38: every step clears DRAW_READY, and of all instructions only the two that draw set it. -/
theorem drawReadyExactlyAfterDrawing : Obligations.DrawReadyExactlyAfterDrawing := by
  intro s t hstep
  constructor
  · intro hready
    obtain ⟨-, -, ⟨i, hat, hexec⟩ | ⟨-, rfl⟩⟩ := step_next_cases hstep
    · cases exec_next_completes hexec with
      | clears => exact .inl hat
      | draws x y n _ _ => exact .inr ⟨x, y, n, hat⟩
      | _ => exact nomatch hready
    · exact nomatch hready
  · rintro (hat | ⟨x, y, n, hat⟩)
    · cases exec_of_step_next hat hstep
      rfl
    · obtain ⟨rfl, -⟩ := eq_of_withTransfer_next (exec_of_step_next hat hstep)
      rfl

/-- Settles O45: the destinations are those of `Completes`; `Dxyn` writes VF. -/
theorem registersChangeOnlyAsDestinations : Obligations.RegistersChangeOnlyAsDestinations := by
  intro s t k hstep hne
  obtain ⟨-, -, ⟨i, hat, hexec⟩ | ⟨-, rfl⟩⟩ := step_next_cases hstep
  · refine ⟨i, hat, ?_⟩
    cases exec_next_completes hexec with
    | writesRegs v n hdest => exact hdest k hne
    | draws x y n f b => exact eq_of_setReg_reg_ne (s := s.beginStep.draw f) hne
    | _ => exact absurd rfl hne
  · exact absurd rfl hne

/-- Settles O47: only a call and a return write SP, and a call writes the entry at SP. -/
theorem stackChangesOnlyByCallAndReturn : Obligations.StackChangesOnlyByCallAndReturn := by
  intro s t hstep
  obtain ⟨-, -, ⟨i, hat, hexec⟩ | ⟨-, rfl⟩⟩ := step_next_cases hstep
  · cases exec_next_completes hexec with
    | calls nnn =>
      refine ⟨fun _ => .inr ⟨nnn, hat⟩, fun k hne => ⟨?_, nnn, hat⟩⟩
      by_contra hk
      exact hne ((State.push_stackEntry ..).trans (if_neg (Ne.symm hk)))
    | returns => exact ⟨fun _ => .inl hat, fun _ hne => absurd rfl hne⟩
    | _ => exact ⟨fun hne => absurd rfl hne, fun _ hne => absurd rfl hne⟩
  · exact ⟨fun hne => absurd rfl hne, fun _ hne => absurd rfl hne⟩

/-- Settles O48: the two drawing instructions write the framebuffer, and those of `setsIndex` write I. -/
theorem screenAndIndexChangeOnlyByTheirInstructions : Obligations.ScreenAndIndexChangeOnlyByTheirInstructions := by
  intro s t hstep
  obtain ⟨-, -, ⟨i, hat, hexec⟩ | ⟨-, rfl⟩⟩ := step_next_cases hstep
  · cases exec_next_completes hexec with
    | clears => exact ⟨fun _ => .inl hat, fun hne => absurd rfl hne⟩
    | draws x y n _ _ => exact ⟨fun _ => .inr ⟨x, y, n, hat⟩, fun hne => absurd rfl hne⟩
    | setsIndex _ hindex =>
      refine ⟨fun hne => absurd rfl hne, fun _ => ?_⟩
      obtain ⟨nnn, rfl⟩ | ⟨x, rfl | rfl⟩ := hindex
      · exact .inl ⟨nnn, hat⟩
      · exact .inr ⟨x, .inl hat⟩
      · exact .inr ⟨x, .inr hat⟩
    | _ => exact ⟨fun hne => absurd rfl hne, fun hne => absurd rfl hne⟩
  · exact ⟨fun hne => absurd rfl hne, fun hne => absurd rfl hne⟩

/-- Settles O49: no meaning touches keys or STATUS, and phases (a) and (b) do not either. -/
theorem stepKeepsKeysAndStatus : Obligations.StepKeepsKeysAndStatus := by
  intro s t hstep
  obtain ⟨hrun, -, ⟨i, -, hexec⟩ | ⟨-, rfl⟩⟩ := step_next_cases hstep
  · cases exec_next_completes hexec <;> exact ⟨rfl, hrun, hrun⟩
  · exact ⟨rfl, hrun, hrun⟩

/-- Settles O50: the parts of `Completes` that fall through, then the other ways one by one. -/
theorem pcTakesOneOfFourForms : Obligations.PcTakesOneOfFourForms := by
  intro s t hstep
  obtain ⟨-, -, ⟨i, hat, hexec⟩ | ⟨-, rfl⟩⟩ := step_next_cases hstep
  · cases exec_next_completes hexec with
    | skips c hskip =>
      cases c with
      | false => exact .inl (BitVec.toNat_add ..)
      | true =>
        obtain ⟨x, y, nn, hi⟩ := hskip
        refine .inr (.inl ⟨BitVec.toNat_add .., x, y, nn, ?_⟩)
        rcases hi with rfl | rfl | rfl | rfl | rfl | rfl <;> simp only [hat, true_or, or_true]
    | jumps nnn => exact .inr (.inr (.inl ⟨nnn, .inl hat, addrOperand_toNat nnn⟩))
    | calls nnn => exact .inr (.inr (.inl ⟨nnn, .inr hat, addrOperand_toNat nnn⟩))
    | jumpsFromV0 nnn => exact .inr (.inr (.inr (.inl ⟨nnn, hat, byteOperand_add_addrOperand_toNat ..⟩)))
    | returns => exact .inr (.inr (.inr (.inr (.inl ⟨hat, rfl⟩))))
    | waits x hnone => exact .inr (.inr (.inr (.inr (.inr ⟨rfl, ⟨x, hat⟩, hnone⟩))))
    | _ => exact .inl (BitVec.toNat_add ..)
  · exact .inl (BitVec.toNat_add ..)

end Sys2Proof.Machine
end

section
/-! SUPPORT. Memory as an instruction meets it (spec/20_memory.md): a step's outcome by the word it fetched, the bytes that a store
writes, and the instructions that never look at memory. -/

namespace Sys2Proof.Machine

open Claims

/-! ### A step's outcome, by what stands at PC -/

theorem step_of_not_running {s : State} (hstopped : s.status ≠ .running) : step s = .fault .notEnabled := by
  cases hst : s.status with
  | running => exact absurd hst hstopped
  | faulted c n => simp only [step, hst, raise]

theorem step_of_fetch_outside {s : State} (hrun : s.status = .running) (hpc : 0xFFE < s.pc.toNat) :
    step s = .fault (.addressFault s.pc.toNat) := by
  simp only [step, hrun, beginStep_fetchWord, if_neg (Nat.not_le.2 hpc), raise]

theorem step_of_at {s : State} {i : Instr} (hat : At s i) : step s = exec i s.beginStep := by
  obtain ⟨hrun, hpc, hdec⟩ := hat
  simp only [step, hrun, beginStep_fetchWord, if_pos hpc, hdec]

theorem step_of_unknown {s : State} {w : Word} (hrun : s.status = .running) (hpc : s.pc.toNat ≤ 0xFFE)
    (hdec : decode s.wordAtPc = .unknown w) : step s = .next (s.beginStep.reportUnknown s.wordAtPc) := by
  simp only [step, hrun, beginStep_fetchWord, if_pos hpc, hdec]

/-! ### The bytes that a store writes -/

/-- A byte that a store changes is one of those stored. -/
theorem Memory.mem_range_of_read_store_ne {m : Memory} {base c : Nat} {bs : List Byte}
    (h : (m.store base bs).read c ≠ m.read c) : base ≤ c ∧ c < base + bs.length := by
  by_contra hc
  exact h (Memory.read_store_outside m base c bs (by omega))

/-- After a store of V0 to Vx, byte `k` of the transfer reads as `V[k]` (spec/43_index_memory.md R144). -/
theorem read_store_regsUpTo (s : State) (x k : Nibble) (h : k.toNat ≤ x.toNat) :
    (s.mem.store (s.effAddr 0) (s.regsUpTo x)).read (s.effAddr k.toNat) = s.reg k := by
  rw [State.effAddr, State.effAddr, Nat.add_zero, Memory.read_store, if_pos (Nat.le_add_right ..), Nat.add_sub_cancel_left,
    regsUpTo_getElem? s x k h, Option.getD_some]

/-- Settles O46: of all that `Completes` lists only the two stores write memory, and a store changes no byte outside it. -/
theorem memoryChangesOnlyByStores : Obligations.MemoryChangesOnlyByStores := by
  intro s t a hstep hne
  obtain ⟨-, -, ⟨i, hat, hexec⟩ | ⟨-, rfl⟩⟩ := step_next_cases hstep
  · cases exec_next_completes hexec with
    | storesDigits x _ =>
      obtain ⟨hlow, hhigh⟩ := Memory.mem_range_of_read_store_ne hne
      exact .inl ⟨x, hat, hlow, Nat.le_of_lt_succ hhigh⟩
    | storesRegs x _ =>
      obtain ⟨hlow, hhigh⟩ := Memory.mem_range_of_read_store_ne hne
      rw [regsUpTo_length] at hhigh
      exact .inr ⟨x, hat, hlow, Nat.le_of_lt_succ hhigh⟩
    | _ => exact absurd rfl hne
  · exact absurd rfl hne

/-- Settles O34: the store's range check puts the two bytes at PC inside memory, and they read as V[k] and V[k + 1]. -/
theorem storeIsSeenByNextFetch : Obligations.StoreIsSeenByNextFetch := by
  intro s t x k i hat hstep hk hpc hdec
  have ⟨hrun, _, _⟩ := hat
  obtain ⟨rfl, hrange⟩ := eq_of_withTransfer_next (exec_of_step_next hat hstep)
  have hsucc : (k + 1).toNat = k.toNat + 1 := by have := x.isLt; bv_omega
  have hnext : s.effAddr k.toNat + 1 = s.effAddr (k + 1).toNat := by rw [hsucc]; rfl
  have hhigh := read_store_regsUpTo s.beginStep x k (by omega)
  have hlow := read_store_regsUpTo s.beginStep x (k + 1) (by omega)
  refine step_of_at ⟨hrun, ?_, ?_⟩
  · rw [State.beginStep_i] at hrange
    rw [hpc, State.effAddr]
    omega
  · rw [hpc, hnext, ← hdec]
    exact congrArg decode (congrArg₂ bigEndian hhigh hlow)

/-! ### The instructions that never look at memory -/

theorem withKeyIndex_setMem (a : Byte) (m : Memory) (done : State) :
    State.withKeyIndex a (done.setMem m) = mapNext (State.setMem m) (State.withKeyIndex a done) := by
  rw [State.withKeyIndex, State.withKeyIndex]
  split <;> rfl

@[simp] theorem setMem_pressed (m : Memory) (s : State) : (s.setMem m).pressed = s.pressed := rfl

/-- `Fx0A` looks at the keys only (spec/45_input_timers.md R163). -/
theorem execLdVxK_setMem (x : Nibble) (m : Memory) (s : State) :
    execLdVxK x (s.setMem m) = mapNext (State.setMem m) (execLdVxK x s) := by
  rw [execLdVxK, execLdVxK, setMem_pressed]
  split <;> rfl

/-- An instruction that does not use the data port does the same over any memory, and leaves it as it was (R45). -/
theorem exec_setMem {i : Instr} (hport : ¬ UsesDataPort i) (m : Memory) (s : State) :
    exec i (s.setMem m) = mapNext (State.setMem m) (exec i s) := by
  cases i with
  | drw _ _ _ | ldB _ | ldMemVx _ | ldVxMem _ => exact absurd trivial hport
  | skp x | sknp x => exact withKeyIndex_setMem (s.reg x) m (s.skipIf _)
  | ldVxK x => exact execLdVxK_setMem x m s
  | _ => rfl

/-- Settles O51: both steps fetch the same word, and nothing else of a step looks at memory. -/
theorem stepIgnoresBytesNotFetched : Obligations.StepIgnoresBytesNotFetched := by
  intro s m hhigh hlow hport
  have hword : (s.setMem m).wordAtPc = s.wordAtPc := congrArg₂ bigEndian hhigh hlow
  show step (s.setMem m) = mapNext (State.setMem m) (step s)
  obtain ⟨hstopped, hstep⟩ | ⟨hrun, hpc, hstep⟩ | ⟨hrun, hpc, i, hdec, hstep⟩ | ⟨hrun, hpc, hdec, hstep⟩ := step_cases s
  · rw [hstep]
    exact step_of_not_running hstopped
  · rw [hstep]
    exact step_of_fetch_outside hrun hpc
  · have hat : At (s.setMem m) i := ⟨hrun, hpc, (congrArg decode hword).trans hdec⟩
    rw [hstep, step_of_at hat]
    exact exec_setMem (hport i ⟨hrun, hpc, hdec⟩) m s.beginStep
  · rw [hstep, step_of_unknown (s := s.setMem m) hrun hpc ((congrArg decode hword).trans hdec), hword]
    rfl

end Sys2Proof.Machine
end

section
/-! SUPPORT. The decoder and the encoder (spec/30_encoding.md): that they are inverse to each other, and the decoder as table R65. -/

namespace Sys2Proof

/-! ### Decoding an encoded word -/

/-- Settles O1: the fields of the encoded word are those it was encoded from, so the decoder takes the instruction's own branch. -/
theorem decodeInvertsEncode : Obligations.DecodeInvertsEncode := by
  intro i
  cases i with
  | cls | ret => rfl
  | jp _ | call _ | ldI _ | jpV0 _ => simp [encode, decode, fieldOp_encodeA, fieldNNN_encodeA]
  | seImm _ _ | sneImm _ _ | ldImm _ _ | addImm _ _ | rnd _ _ =>
    simp [encode, decode, fieldOp_encodeXI, fieldX_encodeXI, fieldNN_encodeXI]
  | skp _ | sknp _ => simp [encode, decode, decodeE, fieldOp_encodeXI, fieldX_encodeXI, fieldNN_encodeXI]
  | ldVxDt _ | ldVxK _ | ldDtVx _ | ldStVx _ | addI _ | ldF _ | ldB _ | ldMemVx _ | ldVxMem _ =>
    simp [encode, decode, decodeF, fieldOp_encodeXI, fieldX_encodeXI, fieldNN_encodeXI]
  | drw _ _ _ => simp [encode, decode, fieldOp_encodeXYN, fieldX_encodeXYN, fieldY_encodeXYN, fieldN_encodeXYN]
  | _ => -- the operations on two registers
    simp [encode, decode, decode5, decode8, decode9, fieldOp_encodeXYN, fieldX_encodeXYN, fieldY_encodeXYN, fieldN_encodeXYN]

/-! ### Encoding a decoded instruction -/

section OfFields

variable {w : Word} {op : Nibble} (hop : (fieldOp w).toNat = op.toNat)
include hop

theorem encodeA_of_op : encodeA op (fieldNNN w) = w := by
  rw [← BitVec.eq_of_toNat_eq hop, encodeA_fields]

theorem encodeXI_of_op {nn : Byte} (hnn : fieldNN w = nn) : encodeXI op (fieldX w) nn = w := by
  rw [← BitVec.eq_of_toNat_eq hop, ← hnn, encodeXI_fields]

theorem encodeXYN_of_op {n : Nibble} (hn : (fieldN w).toNat = n.toNat) : encodeXYN op (fieldX w) (fieldY w) n = w := by
  rw [← BitVec.eq_of_toNat_eq hop, ← BitVec.eq_of_toNat_eq hn, encodeXYN_fields]

end OfFields

section Families

variable {w : Word} {i : Instr}

theorem encode_of_decodeZ (h : decodeZ w = .instr i) : encode i = w := by
  rw [decodeZ] at h
  split_ifs at h with hcls hret <;> cases h
  · exact hcls.symm
  · exact hret.symm

theorem encode_of_decode5 (hop : (fieldOp w).toNat = 0x5) (h : decode5 w = .instr i) : encode i = w := by
  rw [decode5] at h
  split_ifs at h with hn
  cases h
  exact encodeXYN_of_op hop (congrArg _ hn)

theorem encode_of_decode9 (hop : (fieldOp w).toNat = 0x9) (h : decode9 w = .instr i) : encode i = w := by
  rw [decode9] at h
  split_ifs at h with hn
  cases h
  exact encodeXYN_of_op hop (congrArg _ hn)

theorem encode_of_decode8 (hop : (fieldOp w).toNat = 0x8) (h : decode8 w = .instr i) : encode i = w := by
  rw [decode8] at h
  split at h <;> cases h
  all_goals exact encodeXYN_of_op hop ‹_›

theorem encode_of_decodeE (hop : (fieldOp w).toNat = 0xE) (h : decodeE w = .instr i) : encode i = w := by
  rw [decodeE] at h
  split_ifs at h <;> cases h
  all_goals exact encodeXI_of_op hop ‹_›

theorem encode_of_decodeF (hop : (fieldOp w).toNat = 0xF) (h : decodeF w = .instr i) : encode i = w := by
  rw [decodeF] at h
  split_ifs at h <;> cases h
  all_goals exact encodeXI_of_op hop ‹_›

end Families

/-- Settles O2: the word is put together again from its own fields, of which the decoder has checked the fixed ones. -/
theorem encodeInvertsDecode : Obligations.EncodeInvertsDecode := by
  intro w i h
  rw [decode] at h
  split at h
  -- the ops whose words the decoder tests further, 0, 5, 8, 9, E and F
  case h_1 => exact encode_of_decodeZ h
  case h_6 hop => exact encode_of_decode5 hop h
  case h_9 hop => exact encode_of_decode8 hop h
  case h_10 hop => exact encode_of_decode9 hop h
  case h_15 hop => exact encode_of_decodeE hop h
  case h_16 hop => exact encode_of_decodeF hop h
  all_goals cases h
  -- the ops whose every word is an instruction: `1nnn 2nnn Annn Bnnn`, `3xnn 4xnn 6xnn 7xnn Cxnn`, `Dxyn`
  case h_2 hop | h_3 hop | h_11 hop | h_12 hop => exact encodeA_of_op hop
  case h_4 hop | h_5 hop | h_7 hop | h_8 hop | h_13 hop => exact encodeXI_of_op hop rfl
  case h_14 hop => exact encodeXYN_of_op hop rfl

theorem decode_eq_instr_iff {w : Word} {i : Instr} : decode w = .instr i ↔ encode i = w :=
  ⟨encodeInvertsDecode w i, fun h => h ▸ decodeInvertsEncode i⟩

/-! ### The unknown words -/

theorem ite_instr_eq_unknown_iff {c : Prop} [Decidable c] {i : Instr} {v : Verdict} {w : Word} :
    (if c then .instr i else v) = Verdict.unknown w ↔ ¬ c ∧ v = .unknown w := by
  by_cases hc : c <;> simp [hc]

theorem decode8_eq_unknown_iff (w : Word) :
    decode8 w = .unknown w ↔ fieldN w ∈ [0x8, 0x9, 0xA, 0xB, 0xC, 0xD, 0xF] := by
  rw [decode8]
  rcases hn : fieldN w with ⟨n⟩
  fin_cases n <;> simp

/-- Settles O4, op by op: six families hold unknown words, and in each these are the words that fail all its tests. -/
theorem unknownWordsByFamily : Obligations.UnknownWordsByFamily := by
  intro w
  rw [decode]
  rcases hop : fieldOp w with ⟨op⟩
  fin_cases op <;>
    simp [decodeZ, decode5, decode9, decodeE, decodeF, ite_instr_eq_unknown_iff, decode8_eq_unknown_iff]

end Sys2Proof
end

section
/-! SUPPORT. The family RowMatch, for every instruction. -/

namespace Sys2Proof.Laws.RowMatch

theorem statement_of_instr : ∀ i : Instr, Statement i
  | .cls => cls | .ret => ret | .jp nnn => jp nnn | .call nnn => call nnn
  | .seImm x nn => seImm x nn | .sneImm x nn => sneImm x nn | .seReg x y => seReg x y
  | .ldImm x nn => ldImm x nn | .addImm x nn => addImm x nn
  | .ldReg x y => ldReg x y | .orReg x y => orReg x y | .andReg x y => andReg x y | .xorReg x y => xorReg x y
  | .addReg x y => addReg x y | .subReg x y => subReg x y | .shr x y => shr x y
  | .subnReg x y => subnReg x y | .shl x y => shl x y
  | .sneReg x y => sneReg x y | .ldI nnn => ldI nnn | .jpV0 nnn => jpV0 nnn | .rnd x nn => rnd x nn | .drw x y n => drw x y n
  | .skp x => skp x | .sknp x => sknp x
  | .ldVxDt x => ldVxDt x | .ldVxK x => ldVxK x | .ldDtVx x => ldDtVx x | .ldStVx x => ldStVx x | .addI x => addI x
  | .ldF x => ldF x | .ldB x => ldB x | .ldMemVx x => ldMemVx x | .ldVxMem x => ldVxMem x

end Sys2Proof.Laws.RowMatch
end

section
/-! SUPPORT. The decoder is table R65 (spec/30_encoding.md R64): a row matches exactly the words of its instructions. -/

namespace Sys2Proof

/-- A mnemonic names one row of the table. -/
theorem row_eq_of_mnemonic_eq : ∀ r ∈ opcodeTable, ∀ q ∈ opcodeTable, r.mnemonic = q.mnemonic → r = q := by decide

/-- A row matches the word of each of its instructions. -/
theorem encode_and_mask {r : Row} (hr : r ∈ opcodeTable) {i : Instr} (hname : i.mnemonic = r.mnemonic) :
    encode i &&& r.mask = r.value := by
  obtain ⟨q, hq, hqname, hmatch⟩ := Laws.RowMatch.statement_of_instr i
  obtain rfl := row_eq_of_mnemonic_eq q hq r hr (hqname.trans hname)
  exact beq_iff_eq.1 hmatch

/-! ### The instruction of a matching word -/

/-- The word is the word of one of the row's instructions. -/
def Row.IsRowOf (r : Row) (w : Word) : Prop := ∃ i : Instr, encode i = w ∧ i.mnemonic = r.mnemonic

section Mask

variable {w : Word}

theorem fieldOp_of_mask {op : Nibble} (h : w &&& 0xF000 = encodeA op 0) : (fieldOp w).toNat = op.toNat := by
  rw [← encodeA_fields w, encodeA_fixed] at h
  simpa only [fieldOp_encodeA] using congrArg (fun v => (fieldOp v).toNat) h

theorem encodeXI_of_mask {op : Nibble} {nn : Byte} (h : w &&& 0xF0FF = encodeXI op 0 nn) : encodeXI op (fieldX w) nn = w := by
  rw [← encodeXI_fields w, encodeXI_fixed_low] at h
  have hop := congrArg fieldOp h
  have hnn := congrArg fieldNN h
  rw [fieldOp_encodeXI, fieldOp_encodeXI] at hop
  rw [fieldNN_encodeXI, fieldNN_encodeXI] at hnn
  exact encodeXI_of_op (congrArg _ hop) hnn

theorem encodeXYN_of_mask {op n : Nibble} (h : w &&& 0xF00F = encodeXYN op 0 0 n) :
    encodeXYN op (fieldX w) (fieldY w) n = w := by
  rw [← encodeXYN_fields w, encodeXYN_fixed_low] at h
  have hop := congrArg fieldOp h
  have hn := congrArg fieldN h
  rw [fieldOp_encodeXYN, fieldOp_encodeXYN] at hop
  rw [fieldN_encodeXYN, fieldN_encodeXYN] at hn
  exact encodeXYN_of_op (congrArg _ hop) (congrArg _ hn)

theorem eq_of_full_mask {v : Word} (h : w &&& 0xFFFF = v) : v = w :=
  h.symm.trans (BitVec.and_allOnes (x := w))

theorem isRowOf_of_rows0to7 : ∀ r ∈ rows0to7, w &&& r.mask = r.value → r.IsRowOf w := by
  simp only [rows0to7, List.forall_mem_cons]
  exact ⟨fun h => ⟨.cls, eq_of_full_mask h, rfl⟩,
    fun h => ⟨.ret, eq_of_full_mask h, rfl⟩,
    fun h => ⟨.jp _, encodeA_of_op (fieldOp_of_mask h), rfl⟩,
    fun h => ⟨.call _, encodeA_of_op (fieldOp_of_mask h), rfl⟩,
    fun h => ⟨.seImm _ _, encodeXI_of_op (fieldOp_of_mask h) rfl, rfl⟩,
    fun h => ⟨.sneImm _ _, encodeXI_of_op (fieldOp_of_mask h) rfl, rfl⟩,
    fun h => ⟨.seReg _ _, encodeXYN_of_mask h, rfl⟩,
    fun h => ⟨.ldImm _ _, encodeXI_of_op (fieldOp_of_mask h) rfl, rfl⟩,
    fun h => ⟨.addImm _ _, encodeXI_of_op (fieldOp_of_mask h) rfl, rfl⟩,
    List.forall_mem_nil _⟩

theorem isRowOf_of_rows8 : ∀ r ∈ rows8, w &&& r.mask = r.value → r.IsRowOf w := by
  simp only [rows8, List.forall_mem_cons]
  exact ⟨fun h => ⟨.ldReg _ _, encodeXYN_of_mask h, rfl⟩,
    fun h => ⟨.orReg _ _, encodeXYN_of_mask h, rfl⟩,
    fun h => ⟨.andReg _ _, encodeXYN_of_mask h, rfl⟩,
    fun h => ⟨.xorReg _ _, encodeXYN_of_mask h, rfl⟩,
    fun h => ⟨.addReg _ _, encodeXYN_of_mask h, rfl⟩,
    fun h => ⟨.subReg _ _, encodeXYN_of_mask h, rfl⟩,
    fun h => ⟨.shr _ _, encodeXYN_of_mask h, rfl⟩,
    fun h => ⟨.subnReg _ _, encodeXYN_of_mask h, rfl⟩,
    fun h => ⟨.shl _ _, encodeXYN_of_mask h, rfl⟩,
    List.forall_mem_nil _⟩

theorem isRowOf_of_rows9toD : ∀ r ∈ rows9toD, w &&& r.mask = r.value → r.IsRowOf w := by
  simp only [rows9toD, List.forall_mem_cons]
  exact ⟨fun h => ⟨.sneReg _ _, encodeXYN_of_mask h, rfl⟩,
    fun h => ⟨.ldI _, encodeA_of_op (fieldOp_of_mask h), rfl⟩,
    fun h => ⟨.jpV0 _, encodeA_of_op (fieldOp_of_mask h), rfl⟩,
    fun h => ⟨.rnd _ _, encodeXI_of_op (fieldOp_of_mask h) rfl, rfl⟩,
    fun h => ⟨.drw _ _ _, encodeXYN_of_op (fieldOp_of_mask h) rfl, rfl⟩,
    List.forall_mem_nil _⟩

theorem isRowOf_of_rowsEF : ∀ r ∈ rowsEF, w &&& r.mask = r.value → r.IsRowOf w := by
  simp only [rowsEF, List.forall_mem_cons]
  exact ⟨fun h => ⟨.skp _, encodeXI_of_mask h, rfl⟩,
    fun h => ⟨.sknp _, encodeXI_of_mask h, rfl⟩,
    fun h => ⟨.ldVxDt _, encodeXI_of_mask h, rfl⟩,
    fun h => ⟨.ldVxK _, encodeXI_of_mask h, rfl⟩,
    fun h => ⟨.ldDtVx _, encodeXI_of_mask h, rfl⟩,
    fun h => ⟨.ldStVx _, encodeXI_of_mask h, rfl⟩,
    fun h => ⟨.addI _, encodeXI_of_mask h, rfl⟩,
    fun h => ⟨.ldF _, encodeXI_of_mask h, rfl⟩,
    fun h => ⟨.ldB _, encodeXI_of_mask h, rfl⟩,
    fun h => ⟨.ldMemVx _, encodeXI_of_mask h, rfl⟩,
    fun h => ⟨.ldVxMem _, encodeXI_of_mask h, rfl⟩,
    List.forall_mem_nil _⟩

/-- A row matches the words of its instructions and no others (R64). -/
theorem and_mask_eq_iff_isRowOf : ∀ r ∈ opcodeTable, (w &&& r.mask = r.value ↔ r.IsRowOf w) := by
  intro r hr
  constructor
  · revert r
    simp only [opcodeTable, List.forall_mem_append]
    exact ⟨⟨⟨isRowOf_of_rows0to7, isRowOf_of_rows8⟩, isRowOf_of_rows9toD⟩, isRowOf_of_rowsEF⟩
  · rintro ⟨i, rfl, hname⟩
    exact encode_and_mask hr hname

end Mask

/-- Settles O3: a word has at most one instruction, and that instruction one row. -/
theorem decodeFollowsOpcodeTable : Obligations.DecodeFollowsOpcodeTable := by
  intro w
  have hrow : ∀ r ∈ opcodeTable, (w &&& r.mask = r.value ↔ ∃ i, decode w = .instr i ∧ i.mnemonic = r.mnemonic) := by
    simp only [decode_eq_instr_iff]
    exact and_mask_eq_iff_isRowOf
  refine ⟨hrow, fun r hr q hq hrw hqw => ?_, ?_, ?_⟩
  · obtain ⟨i, hi, hname⟩ := (hrow r hr).1 hrw
    obtain ⟨j, hj, hname'⟩ := (hrow q hq).1 hqw
    cases hi.symm.trans hj
    exact row_eq_of_mnemonic_eq r hr q hq (hname.symm.trans hname')
  · intro hnone
    obtain ⟨i, hi⟩ | hunknown := Machine.decode_cases w
    · obtain ⟨r, hr, hname, -⟩ := Laws.RowMatch.statement_of_instr i
      exact absurd ((hrow r hr).2 ⟨i, hi, hname.symm⟩) (hnone r hr)
    · exact hunknown
  · intro hunknown r hr hmatch
    obtain ⟨i, hi, -⟩ := (hrow r hr).1 hmatch
    exact nomatch hunknown.symm.trans hi

/-- Settles O5: each word is fixed, so the decoder computes its verdict. -/
theorem writtenWordsDecode : Obligations.WrittenWordsDecode := by
  unfold Obligations.WrittenWordsDecode
  decide

end Sys2Proof
end

section
/-! SUPPORT. Runs of several steps, and the walk of PC through zeroed memory (spec/30_encoding.md R66, spec/60_exceptions.md R174). -/

namespace Sys2Proof.Machine

theorem run_succ_of_step {M : Host.Core} {s u : M.State} (k : Nat) (h : M.step s = .next u) : M.run (k + 1) s = M.run k u := by
  rw [Host.Core.run, h]

/-- The report is that of the word 0, fetched from the address two below PC. -/
def State.ReportsZeroWord (s : State) : Prop := s.report = some (.unknownOpcode 0 (s.pc - 2))

theorem step_of_zero_word {s : State} (hrun : s.status = .running) (hpc : s.pc.toNat ≤ 0xFFE) (hword : s.wordAtPc = 0) :
    step s = .next (s.beginStep.reportUnknown 0) := by
  rw [step_of_unknown hrun hpc (w := 0) (by rw [hword]; rfl), hword]

theorem reportsZeroWord_reportUnknown (s : State) : (s.reportUnknown 0).ReportsZeroWord := by
  rw [State.ReportsZeroWord, State.reportUnknown_report, State.reportUnknown_pc, BitVec.add_sub_cancel]

/-- `k` steps from `s` through zeroed memory have led to `t`. The report of `t` is that of its last step; without a step it is that
of `s`, which lets an induction carry it past its last step. -/
structure ZeroWalk (k : Nat) (s t : State) : Prop where
  run    : core.run k s = .next t
  status : t.status = .running
  pc     : t.pc.toNat = s.pc.toNat + 2 * k
  mem    : t.mem = s.mem
  report : 0 < k ∨ s.ReportsZeroWord → t.ReportsZeroWord

/-- Memory that reads 0 from PC up is walked for as many steps as fit below 0x1000. -/
theorem exists_zeroWalk (k : Nat) : ∀ s : State, s.status = .running → (∀ a, s.pc.toNat ≤ a → a ≤ 0xFFF → s.read a = 0) →
    s.pc.toNat + 2 * k ≤ 0x1000 → ∃ t, ZeroWalk k s t := by
  induction k with
  | zero => exact fun s hrun _ _ => ⟨s, rfl, hrun, rfl, rfl, fun h => h.resolve_left (Nat.lt_irrefl 0)⟩
  | succ k ih =>
    intro s hrun hzero htop
    have hword : s.wordAtPc = 0 := by
      rw [State.wordAtPc, hzero _ (by omega) (by omega), hzero _ (by omega) (by omega)]
      rfl
    have hstep := step_of_zero_word hrun (by omega) hword
    have hpc : (s.beginStep.reportUnknown 0).pc.toNat = s.pc.toNat + 2 := by
      rw [State.reportUnknown_pc, State.beginStep_pc]
      bv_omega
    obtain ⟨t, ht⟩ := ih (s.beginStep.reportUnknown 0) hrun (fun a ha => hzero a (by omega)) (by omega)
    exact ⟨t, (run_succ_of_step (M := core) k hstep).trans ht.run, ht.status, by rw [ht.pc, hpc]; omega, ht.mem,
      fun _ => ht.report (.inr (reportsZeroWord_reportUnknown _))⟩

/-- Settles O53: the walk of `k` steps, and the fetch fault where PC has passed 0xFFE. -/
theorem zeroedMemoryIsWalkedToTheTop : Obligations.ZeroedMemoryIsWalkedToTheTop := by
  intro s k hrun hzero htop
  obtain ⟨t, ht⟩ := exists_zeroWalk k s hrun hzero htop
  exact ⟨t, ht.run, ht.pc, fun a => congrArg (Memory.read · a) ht.mem, fun hk => ht.report (.inl hk),
    step_of_fetch_outside ht.status⟩

end Sys2Proof.Machine
end

section
/-! SUPPORT. The phases common to all steps (spec/40_step_cycle.md R81 to R84), and a step by its three ends: the decoded instruction,
the unknown word (R87) and the fault (R88). -/

namespace Sys2Proof.Machine

open Claims

/-! ### The fetched word and the ticked timer as numbers -/

/-- The byte at the lower address is the more significant one (spec/20_memory.md R42). -/
theorem bigEndian_toNat (hi lo : Byte) : (bigEndian hi lo).toNat = hi.toNat * 256 + lo.toNat := by
  have hhi := hi.isLt
  have hlo := lo.isLt
  have hdisjoint : hi.setWidth 16 <<< 8 &&& lo.setWidth 16 = 0 := by
    refine BitVec.eq_of_getLsbD_eq fun i hi => ?_
    interval_cases i <;> simp
  rw [bigEndian, or_toNat _ _ hdisjoint]
  simp [Nat.shiftLeft_eq]
  omega

/-- A tick stops at 0 (R83), as subtraction of natural numbers does. -/
theorem countDown_toNat (b : Byte) : (countDown b).toNat = b.toNat - 1 := by
  rw [countDown]
  split
  · next hzero => rw [hzero]; rfl
  · next hpos => bv_omega

theorem countDown_eq_ofNat (b : Byte) : countDown b = BitVec.ofNat 8 (b.toNat - 1) := by
  rw [← countDown_toNat, BitVec.ofNat_toNat, BitVec.setWidth_eq]

/-! ### The ends of a step -/

/-- Settles O6: phases (a) and (b) write the ticked timers as numbers. -/
theorem stepRunsDecodedInstruction : Obligations.StepRunsDecodedInstruction := by
  intro s i hat
  rw [step_of_at hat, State.beginStep, countDown_eq_ofNat, countDown_eq_ofNat]

/-- Settles O7: the state that reports the word, part by part. -/
theorem stepReportsUnknownWord : Obligations.StepReportsUnknownWord := by
  rintro s w hrun hpc rfl hdec
  exact ⟨_, step_of_unknown hrun hpc hdec, hrun, BitVec.toNat_add .., rfl, rfl, countDown_toNat _, countDown_toNat _, rfl⟩

/-- Settles O8, on either side of 0xFFE. -/
theorem fetchReadsBigEndianOrFaults : Obligations.FetchReadsBigEndianOrFaults := by
  intro s hrun
  refine ⟨step_of_fetch_outside hrun, fun hpc => ⟨s.wordAtPc, ?_, bigEndian_toNat ..⟩⟩
  rw [beginStep_fetchWord, if_pos hpc]

/-- A step that was enabled and faults leaves the state that takes the fault (R88). -/
theorem apply_step_of_fault {s : State} {f : Fault} (h : step s = .fault f) (henabled : f ≠ .notEnabled) :
    s.apply .step = some (s.takeFault f) := by
  rw [State.apply, h]
  cases f with
  | notEnabled => exact absurd rfl henabled
  | _ => rfl

/-- Settles O11: of the outcomes of a running machine's step two are faults, and either is taken on the state before the step. -/
theorem faultingStepKeepsAllButStatus : Obligations.FaultingStepKeepsAllButStatus := by
  intro s f hrun hstep
  obtain ⟨t, i, -, hnext, -⟩ | ⟨t, -, hnext, -⟩ | ⟨a, -, hfault⟩ | ⟨k, -, hfault⟩ := stepOutcomesOfRunningMachine s hrun
  · exact nomatch hnext.symm.trans hstep
  · exact nomatch hnext.symm.trans hstep
  · cases hfault.symm.trans hstep
    exact ⟨_, _, .inl ⟨rfl, rfl⟩, apply_step_of_fault hstep nofun⟩
  · cases hfault.symm.trans hstep
    exact ⟨_, _, .inr ⟨rfl, rfl⟩, apply_step_of_fault hstep nofun⟩

end Sys2Proof.Machine
end

section
/-! SUPPORT. The timers over one step and over several (spec/40_step_cycle.md R83, spec/45_input_timers.md R164 to R166). -/

namespace Sys2Proof.Machine

open Claims

/-! ### One step -/

/-- Only `Fx15` writes DT in phase (d). -/
theorem Completes.keeps_dt {i : Instr} {s t : State} (hc : Completes s i t) (hi : ∀ x, i ≠ .ldDtVx x) : t.dt = s.dt := by
  cases hc with
  | setsDelay x => exact absurd rfl (hi x)
  | _ => rfl

/-- Only `Fx18` writes ST in phase (d). -/
theorem Completes.keeps_st {i : Instr} {s t : State} (hc : Completes s i t) (hi : ∀ x, i ≠ .ldStVx x) : t.st = s.st := by
  cases hc with
  | setsSound x => exact absurd rfl (hi x)
  | _ => rfl

theorem dt_of_step_of_fx15 {s t : State} {x : Nibble} (hat : At s (.ldDtVx x)) (hstep : step s = .next t) :
    t.dt = s.reg x := by
  cases exec_of_step_next hat hstep
  rfl

theorem st_of_step_of_fx18 {s t : State} {x : Nibble} (hat : At s (.ldStVx x)) (hstep : step s = .next t) :
    t.st = s.reg x := by
  cases exec_of_step_next hat hstep
  rfl

theorem dt_of_step_of_not_fx15 {s t : State} (hnot : ∀ x, ¬ At s (.ldDtVx x)) (hstep : step s = .next t) :
    t.dt = countDown s.dt := by
  obtain ⟨-, -, ⟨i, hat, hexec⟩ | ⟨-, rfl⟩⟩ := step_next_cases hstep
  · exact (exec_next_completes hexec).keeps_dt fun x hi => hnot x (hi ▸ hat)
  · rfl

theorem st_of_step_of_not_fx18 {s t : State} (hnot : ∀ x, ¬ At s (.ldStVx x)) (hstep : step s = .next t) :
    t.st = countDown s.st := by
  obtain ⟨-, -, ⟨i, hat, hexec⟩ | ⟨-, rfl⟩⟩ := step_next_cases hstep
  · exact (exec_next_completes hexec).keeps_st fun x hi => hnot x (hi ▸ hat)
  · rfl

/-- Settles O42, each timer by whether its own instruction stands at PC. -/
theorem timersTickInEveryStep : Obligations.TimersTickInEveryStep := by
  intro s t hstep
  refine ⟨fun x hat => dt_of_step_of_fx15 hat hstep, fun hnot => ?_, fun x hat => st_of_step_of_fx18 hat hstep, fun hnot => ?_⟩
  · rw [dt_of_step_of_not_fx15 hnot hstep, countDown_toNat]
  · rw [st_of_step_of_not_fx18 hnot hstep, countDown_toNat]

/-- `Fx07` reads DT after the tick of its own step (R162). -/
theorem reg_of_step_of_fx07 {s t : State} {y : Nibble} (hat : At s (.ldVxDt y)) (hstep : step s = .next t) :
    t.reg y = countDown s.dt := by
  cases exec_of_step_next hat hstep
  exact State.setReg_reg_self ..

/-! ### Several steps -/

theorem setsDelay_of_at {s : State} {x : Nibble} (hat : At s (.ldDtVx x)) : setsDelay s = true := by
  obtain ⟨-, -, hdec⟩ := hat
  rw [setsDelay, hdec]

/-- A run without `Fx15` of `j + 1` steps is a step without `Fx15` and a run of `j`. -/
theorem stepsWithoutFx15_succ_eq_some {j : Nat} {s u : State} (h : stepsWithoutFx15 (j + 1) s = some u) :
    (∀ x, ¬ At s (.ldDtVx x)) ∧ ∃ t, step s = .next t ∧ stepsWithoutFx15 j t = some u := by
  rw [stepsWithoutFx15] at h
  split at h
  · cases h
  next hnot =>
    refine ⟨fun x hat => hnot (setsDelay_of_at hat), ?_⟩
    split at h
    · exact ⟨_, ‹_›, h⟩
    · cases h

/-- Each step of a run without `Fx15` takes one from DT, down to 0. -/
theorem dt_of_stepsWithoutFx15 {j : Nat} {s u : State} (h : stepsWithoutFx15 j s = some u) : u.dt.toNat = s.dt.toNat - j := by
  induction j generalizing s with
  | zero => cases h; rfl
  | succ j ih =>
    obtain ⟨hnot, t, hstep, hrest⟩ := stepsWithoutFx15_succ_eq_some h
    rw [ih hrest, dt_of_step_of_not_fx15 hnot hstep, countDown_toNat]
    omega

/-- Settles O43: `Fx15` puts Vx into DT, the run counts it down, and `Fx07` reads it one tick later. -/
theorem delayTimerCountsSteps : Obligations.DelayTimerCountsSteps := by
  intro s t u x j hat hstep hrun
  have hdt : u.dt.toNat = (s.reg x).toNat - j := by rw [dt_of_stepsWithoutFx15 hrun, dt_of_step_of_fx15 hat hstep]
  refine ⟨hdt, fun y w hread hlast => ?_⟩
  rw [reg_of_step_of_fx07 hread hlast, countDown_toNat, hdt]
  omega

end Sys2Proof.Machine
end

section
/-! SUPPORT. The word of an instruction as a number (spec/30_encoding.md R61, R62). -/

namespace Sys2Proof

open Claims

/-- An instruction has its word's number, since its word decodes to it. -/
theorem hasWord_of_encode_toNat {i : Instr} {n : Nat} (h : (encode i).toNat = n) : HasWord i n := by
  refine ⟨h, ?_⟩
  rw [← h, BitVec.ofNat_toNat, BitVec.setWidth_eq]
  exact decodeInvertsEncode i

end Sys2Proof
end

section
/-! SUPPORT. `Fx0A` by how many keys are pressed (spec/45_input_timers.md R163), and the draws (spec/40_step_cycle.md R91). -/

namespace Sys2Proof.Machine

open Claims

/-! ### Another draw counter -/

/-- The state with another count of draws. -/
def State.setDraws (n : Nat) (s : State) : State := { s with draws := n }

@[simp] theorem setDraws_reg (n : Nat) (s : State) (x : Nibble) : (s.setDraws n).reg x = s.reg x := rfl

@[simp] theorem setDraws_pressed (n : Nat) (s : State) : (s.setDraws n).pressed = s.pressed := rfl

@[simp] theorem setDraws_outOfRange (n len : Nat) (s : State) : (s.setDraws n).outOfRange len = s.outOfRange len := rfl

/-! ### The pressed keys -/

/-- The set of pressed keys lists no key twice. -/
theorem pressed_nodup (s : State) : s.pressed.Nodup :=
  List.Nodup.filter _ (by decide)

/-- With two keys in the list, every key has another pressed beside it. -/
theorem exists_key_ne {s : State} {a b : Nibble} {ks : List Nibble} (h : s.pressed = a :: b :: ks) (k : Nibble) :
    ∃ j, s.key j = true ∧ j ≠ k := by
  have hne : a ≠ b := by
    have hnodup := pressed_nodup s
    rw [h] at hnodup
    exact List.ne_of_not_mem_cons (List.nodup_cons.1 hnodup).1
  have ha : s.key a = true := (mem_pressed s a).1 (by simp [h])
  have hb : s.key b = true := (mem_pressed s b).1 (by simp [h])
  by_cases hak : a = k
  · exact ⟨b, hb, fun hbk => hne (hak.trans hbk.symm)⟩
  · exact ⟨a, ha, hak⟩

/-- `Fx0A` waits while no key is pressed. -/
theorem execLdVxK_of_no_key {s : State} (hnone : ∀ k, s.key k = false) (x : Nibble) : execLdVxK x s = .next s := by
  rw [execLdVxK, (pressed_eq_nil_iff s).2 hnone, State.hold_eq]

/-- `Fx0A` reads the only pressed key without a draw, and one of several with a draw (R91). -/
theorem execLdVxK_of_some_key {s : State} (hsome : ∃ k, s.key k = true) (x : Nibble) :
    ∃ k n, s.key k = true ∧ execLdVxK x s = .next ((s.setDraws n).setReg x (k.zeroExtend 8)).fallThrough ∧
      ((∀ j, s.key j = true → j = k) → n = s.draws) ∧ ((∃ j, s.key j = true ∧ j ≠ k) → n = s.draws + 1) := by
  obtain ⟨p, hp⟩ := hsome
  rw [execLdVxK]
  match h : s.pressed with
  | [] => exact nomatch ((pressed_eq_nil_iff s).1 h p).symm.trans hp
  | [k] =>
    have honly : ∀ j, s.key j = true ↔ j = k := fun j => by rw [← mem_pressed, h, List.mem_singleton]
    exact ⟨k, s.draws, (honly k).2 rfl, rfl, fun _ => rfl, fun ⟨j, hj, hne⟩ => absurd ((honly j).1 hj) hne⟩
  | a :: b :: ks =>
    have hchosen : s.key (s.chosenKey a (b :: ks)) = true := (mem_pressed ..).1 (h ▸ chosenKey_mem s a (b :: ks))
    obtain ⟨j, hj, hne⟩ := exists_key_ne h (s.chosenKey a (b :: ks))
    exact ⟨_, s.draws + 1, hchosen, rfl, fun honly => absurd (honly j hj) hne, fun _ => rfl⟩

/-- A key's index as a byte is the same number. -/
theorem zeroExtend_byte_toNat (k : Nibble) : (k.zeroExtend 8).toNat = k.toNat := BitVec.toNat_setWidth_of_le (by decide)

/-- Settles O40: no key pressed, or some. -/
theorem keyWaitResult : Obligations.KeyWaitResult := by
  intro s x
  refine ⟨hasWord_of_encode_toNat ?_, fun hnone => execLdVxK_of_no_key hnone x, fun hsome => ?_⟩
  · exact (encodeXI_toNat ..).trans (by bv_omega)
  · obtain ⟨k, n, hk, hexec, halone, hdrawn⟩ := execLdVxK_of_some_key hsome x
    refine ⟨_, k, hexec, hk, ?_, fun j hj => ?_, BitVec.toNat_add .., fun _ => rfl, rfl, halone, hdrawn⟩
    · rw [State.fallThrough_reg, State.setReg_reg_self, zeroExtend_byte_toNat]
    · rw [State.fallThrough_reg, State.setReg_reg, if_neg (Ne.symm hj), setDraws_reg]

/-! ### The instructions that draw nothing -/

theorem withTransfer_setDraws {n len : Nat} {s done done' : State} (hdone : done' = done.setDraws n) :
    (s.setDraws n).withTransfer len done' = mapNext (State.setDraws n) (s.withTransfer len done) := by
  rw [hdone, State.withTransfer, State.withTransfer, setDraws_outOfRange]
  split <;> rfl

theorem withKeyIndex_setDraws {a : Byte} {n : Nat} {done done' : State} (hdone : done' = done.setDraws n) :
    State.withKeyIndex a done' = mapNext (State.setDraws n) (State.withKeyIndex a done) := by
  rw [hdone, State.withKeyIndex, State.withKeyIndex]
  split <;> rfl

/-- With at most one key pressed `Fx0A` has nothing to draw. -/
theorem execLdVxK_setDraws {s : State} (hone : ∀ j k, s.key j = true → s.key k = true → j = k) (x : Nibble) (n : Nat) :
    execLdVxK x (s.setDraws n) = mapNext (State.setDraws n) (execLdVxK x s) := by
  rw [execLdVxK, execLdVxK, setDraws_pressed]
  match h : s.pressed with
  | [] | [k] => rfl
  | a :: b :: ks =>
    obtain ⟨j, hj, -⟩ := exists_key_ne h a
    obtain ⟨k, hk, hne⟩ := exists_key_ne h j
    exact absurd (hone k j hk hj) hne

/-- Settles O44: no other meaning looks at the counter; the checked ones do not look at it in their check either. -/
theorem drawsMatterOnlyToRandomAndKeyWait : Obligations.DrawsMatterOnlyToRandomAndKeyWait := by
  intro s i n hrnd hkeys
  show exec i (s.setDraws n) = mapNext (State.setDraws n) (exec i s)
  cases i with
  | rnd x nn => exact absurd rfl (hrnd x nn)
  | ldVxK x => exact execLdVxK_setDraws (hkeys x rfl) x n
  | drw _ _ _ | ldB _ | ldMemVx _ | ldVxMem _ => exact withTransfer_setDraws rfl
  | skp _ | sknp _ => exact withKeyIndex_setDraws rfl
  | _ => rfl

end Sys2Proof.Machine
end

section
/-! SUPPORT. The word of an instruction as a number, format by format (spec/30_encoding.md table R62). -/

namespace Sys2Proof

open Claims

theorem hasWord_of_encodeA {i : Instr} (op : Nibble) (nnn : Addr12) (h : encode i = encodeA op nnn := by rfl) :
    HasWord i (0x1000 * op.toNat + nnn.toNat) :=
  hasWord_of_encode_toNat (h ▸ encodeA_toNat op nnn)

theorem hasWord_of_encodeXI {i : Instr} (op x : Nibble) (nn : Byte) (h : encode i = encodeXI op x nn := by rfl) :
    HasWord i (0x1000 * op.toNat + 0x100 * x.toNat + nn.toNat) :=
  hasWord_of_encode_toNat (h ▸ encodeXI_toNat op x nn)

theorem hasWord_of_encodeXYN {i : Instr} (op x y n : Nibble) (h : encode i = encodeXYN op x y n := by rfl) :
    HasWord i (0x1000 * op.toNat + 0x100 * x.toNat + 0x10 * y.toNat + n.toNat) :=
  hasWord_of_encode_toNat (h ▸ encodeXYN_toNat op x y n)

end Sys2Proof
end

section
/-! SUPPORT. Control transfer (spec/41_flow.md): what a jump and a skip leave, and the results of the four kinds of instruction
that write PC. -/

namespace Sys2Proof.Machine

open Claims

/-! ### PC as the only part written (spec/40_step_cycle.md R86) -/

/-- An instruction that jumps writes PC and nothing else. -/
theorem writesPc_of_exec_jump {i : Instr} {s : State} {w : Word} {target : Nat} (h : exec i s = .next (s.jump w))
    (hw : w.toNat = target) : WritesPc i s target :=
  ⟨s.jump w, h, hw, fun _ => rfl, fun _ => rfl, rfl⟩

/-- A skip is a jump to `pc0 + 4` or to `pc0 + 2`, by its condition `p`, which the model computes as `c`. -/
theorem writesPc_of_exec_skipIf {i : Instr} {s : State} {c : Bool} {p : Prop} [Decidable p] (h : exec i s = .next (s.skipIf c))
    (hc : c = true ↔ p) : WritesPc i s ((s.pc.toNat + if p then 4 else 2) % 65536) := by
  refine writesPc_of_exec_jump h ?_
  by_cases hp : p
  · rw [if_pos (hc.2 hp), if_pos hp]
    exact BitVec.toNat_add ..
  · rw [if_neg (mt hc.1 hp), if_neg hp]
    exact BitVec.toNat_add ..

/-- Settles O20: both instructions jump, and the sum of `Bnnn` cannot wrap. -/
theorem jumpTargets : Obligations.JumpTargets := by
  intro s nnn
  exact ⟨hasWord_of_encodeA 0x1 nnn, writesPc_of_exec_jump rfl (addrOperand_toNat nnn),
    hasWord_of_encodeA 0xB nnn, writesPc_of_exec_jump rfl (byteOperand_add_addrOperand_toNat ..)⟩

/-- Settles O24: each condition by the test that the model computes for it. -/
theorem skipsAddFourOrTwo : Obligations.SkipsAddFourOrTwo := by
  intro s x y nn
  exact ⟨hasWord_of_encodeXI 0x3 x nn, hasWord_of_encodeXI 0x4 x nn, hasWord_of_encodeXYN 0x5 x y 0, hasWord_of_encodeXYN 0x9 x y 0,
    writesPc_of_exec_skipIf rfl beq_iff_eq, writesPc_of_exec_skipIf rfl bne_iff_ne,
    writesPc_of_exec_skipIf rfl beq_iff_eq, writesPc_of_exec_skipIf rfl bne_iff_ne⟩

/-! ### The call stack (spec/10_state.md R15, R16) -/

/-- Settles O21: the entry at the old SP is the one pushed. -/
theorem callPushesNextAddress : Obligations.CallPushesNextAddress := by
  intro s nnn
  refine ⟨hasWord_of_encodeA 0x2 nnn, (s.push (s.pc + 2)).jump (addrOperand nnn), rfl, ?_, fun k hk => ?_,
    BitVec.toNat_add .., addrOperand_toNat nnn, fun _ => rfl, fun _ => rfl, rfl⟩
  · rw [State.jump_stackEntry, State.push_stackEntry, if_pos rfl]
    exact BitVec.toNat_add ..
  · rw [State.jump_stackEntry, State.push_stackEntry, if_neg (Ne.symm hk)]

/-- Settles O22: to take 1 from SP is to add 15 modulo 16. -/
theorem returnPopsEntry : Obligations.ReturnPopsEntry := by
  intro s
  have hsp : (s.sp - 1).toNat = (s.sp.toNat + 15) % 16 := by bv_omega
  exact ⟨hasWord_of_encode_toNat rfl, s.pop.jump (s.stackEntry (s.sp - 1)), rfl, hsp, rfl, fun _ => rfl, fun _ => rfl,
    fun _ => rfl, rfl⟩

end Sys2Proof.Machine
end

section
/-! SUPPORT. Loads, arithmetic, logic, shifts and random (spec/42_alu.md): the word of an instruction of the family `8xyn`, what the
two shapes of result leave, and the values of results and flags as numbers. -/

namespace Sys2Proof.Machine

open Claims

/-- The family `8xyn`, with the secondary opcode `n` beside the high nibble, as the rules of spec/42_alu.md write it. -/
theorem hasWord_of_encode8 {i : Instr} (n x y : Nibble) (h : encode i = encodeXYN 0x8 x y n := by rfl) :
    HasWord i (0x8000 + n.toNat + 0x100 * x.toNat + 0x10 * y.toNat) := by
  have hplace : 0x1000 * (0x8 : Nibble).toNat = 0x8000 := rfl
  have hword := hasWord_of_encodeXYN 0x8 x y n h
  rw [hplace] at hword
  convert hword using 1
  omega

/-! ### The two shapes of result -/

/-- Falling through moves PC on by 2 (spec/40_step_cycle.md R86). -/
theorem pcPlus_fallThrough (s : State) : PcPlus 2 s s.fallThrough := BitVec.toNat_add ..

/-- A result without a flag stands in register `x`, and no other register is written. -/
theorem writesReg_of_exec_result {i : Instr} {s : State} {x : Nibble} {r b : Byte} (h : exec i s = s.result x r) (hr : r = b) :
    WritesReg i s x b := by
  refine ⟨(s.setReg x r).fallThrough, h, ?_, fun k hk => ?_, pcPlus_fallThrough (s.setReg x r), fun _ => rfl, rfl⟩
  · rw [State.fallThrough_reg, State.setReg_reg_self, hr]
  · rw [State.fallThrough_reg, State.setReg_reg, if_neg (Ne.symm hk)]

/-- A result with a flag: the result is written last, so it stands in VF too when `x` is VF (spec/42_alu.md R133). -/
theorem writesFlagThenReg_of_exec_flaggedResult {i : Instr} {s : State} {c : Bool} {f : Byte} {x : Nibble} {r b : Byte}
    (h : exec i s = s.flaggedResult c x r) (hc : flagByte c = f) (hr : r = b) : WritesFlagThenReg i s f x b := by
  refine ⟨(s.setFlagThenReg c x r).fallThrough, h, ?_, fun hx => ?_, fun k hx hf => ?_,
    pcPlus_fallThrough (s.setFlagThenReg c x r), fun _ => rfl, rfl⟩
  · rw [State.fallThrough_reg, State.setFlagThenReg_reg, if_pos rfl, hr]
  · rw [State.fallThrough_reg, State.setFlagThenReg_reg, if_neg hx, if_pos rfl, hc]
  · rw [State.fallThrough_reg, State.setFlagThenReg_reg, if_neg (Ne.symm hx), if_neg (Ne.symm hf)]

/-! ### Results and flags as numbers (R126 to R130, R132) -/

theorem byte_add_eq_ofNat (a b : Byte) : a + b = BitVec.ofNat 8 ((a.toNat + b.toNat) % 256) := by
  bv_omega

theorem byte_sub_eq_ofNat (a b : Byte) : a - b = BitVec.ofNat 8 ((a.toNat + 256 - b.toNat) % 256) := by
  bv_omega

theorem byte_half_eq_ofNat (a : Byte) : a >>> 1 = BitVec.ofNat 8 (a.toNat / 2) := by
  bv_omega

theorem byte_double_eq_ofNat (a : Byte) : a <<< 1 = BitVec.ofNat 8 (2 * a.toNat % 256) := by
  bv_omega

theorem flagByte_carry (a b : Byte) : flagByte (carry a b) = if 255 < a.toNat + b.toNat then 1 else 0 := by
  simp [flagByte, carry]

theorem flagByte_noBorrow (a b : Byte) : flagByte (noBorrow a b) = if a.toNat < b.toNat then 0 else 1 := by
  by_cases h : a.toNat < b.toNat <;> simp [flagByte, noBorrow, h]

/-- A number below 2 is the flag of its being 1. -/
theorem flagByte_decide_eq_one {n : Nat} (hn : n < 2) : flagByte (decide (n = 1)) = BitVec.ofNat 8 n := by
  obtain rfl | rfl : n = 0 ∨ n = 1 := by omega
  · rfl
  · rfl

/-- The lowest bit of a byte is its remainder by 2. -/
theorem flagByte_bitOutLow (a : Byte) : flagByte (bitOutLow a) = BitVec.ofNat 8 (a.toNat % 2) := by
  have hbit : bitOutLow a = decide (a.toNat % 2 = 1) := Nat.testBit_zero _
  rw [hbit, flagByte_decide_eq_one (by omega)]

/-- The highest bit of a byte is its quotient by 128, which is at most 1. -/
theorem flagByte_bitOutHigh (a : Byte) : flagByte (bitOutHigh a) = BitVec.ofNat 8 (a.toNat / 128) := by
  have hlt : a.toNat / 128 < 2 := by have := a.isLt; omega
  have hbit : bitOutHigh a = decide (a.toNat / 128 % 2 = 1) := Nat.testBit_eq_decide_div_mod_eq
  rw [hbit, Nat.mod_eq_of_lt hlt, flagByte_decide_eq_one hlt]

/-! ### The instructions -/

/-- Settles O25: each result is written as it stands, but the sum, which wraps modulo 256. -/
theorem loadAndLogicResults : Obligations.LoadAndLogicResults := by
  intro s x y nn
  exact ⟨hasWord_of_encodeXI 0x6 x nn, hasWord_of_encodeXI 0x7 x nn, hasWord_of_encode8 0 x y, hasWord_of_encode8 1 x y,
    hasWord_of_encode8 2 x y, hasWord_of_encode8 3 x y,
    writesReg_of_exec_result rfl rfl, writesReg_of_exec_result rfl (byte_add_eq_ofNat ..), writesReg_of_exec_result rfl rfl,
    writesReg_of_exec_result rfl rfl, writesReg_of_exec_result rfl rfl, writesReg_of_exec_result rfl rfl⟩

/-- Settles O26: the sum with its carry, and both differences, which differ in the order of the operands alone. -/
theorem addAndSubtractWithFlag : Obligations.AddAndSubtractWithFlag := by
  intro s x y
  exact ⟨hasWord_of_encode8 4 x y, hasWord_of_encode8 5 x y, hasWord_of_encode8 7 x y,
    writesFlagThenReg_of_exec_flaggedResult rfl (flagByte_carry ..) (byte_add_eq_ofNat ..),
    writesFlagThenReg_of_exec_flaggedResult rfl (flagByte_noBorrow ..) (byte_sub_eq_ofNat ..),
    writesFlagThenReg_of_exec_flaggedResult rfl (flagByte_noBorrow ..) (byte_sub_eq_ofNat ..)⟩

/-- Settles O27: to shift by one is to halve or to double, and the bit shifted out is the remainder or the overflow. -/
theorem shiftsByOneWithFlag : Obligations.ShiftsByOneWithFlag := by
  intro s x y
  exact ⟨hasWord_of_encode8 0x6 x y, hasWord_of_encode8 0xE x y,
    writesFlagThenReg_of_exec_flaggedResult rfl (flagByte_bitOutLow _) (byte_half_eq_ofNat _),
    writesFlagThenReg_of_exec_flaggedResult rfl (flagByte_bitOutHigh _) (byte_double_eq_ofNat _)⟩

/-- Settles O28: the draw is consumed first, and what is left is a result without a flag. -/
theorem randomByteIsMasked : Obligations.RandomByteIsMasked := by
  intro s x nn
  have hx : ((s.nextDraw.setReg x (s.drawnByte &&& nn)).fallThrough).reg x = Config.rnd s.draws &&& nn := by
    rw [State.fallThrough_reg, State.setReg_reg_self, State.drawnByte]
  refine ⟨hasWord_of_encodeXI 0xC x nn, (s.nextDraw.setReg x (s.drawnByte &&& nn)).fallThrough, rfl, hx, fun j hj => ?_,
    fun k hk => ?_, pcPlus_fallThrough (s.nextDraw.setReg x (s.drawnByte &&& nn)), fun _ => rfl, rfl, rfl⟩
  · rw [hx, BitVec.getLsbD_and, hj, Bool.and_false]
  · rw [State.fallThrough_reg, State.setReg_reg, if_neg (Ne.symm hk), State.nextDraw_reg]

end Sys2Proof.Machine
end

section
/-! SUPPORT. The index register and the memory transfers (spec/43_index_memory.md): the words of the family `Fx`, what a write of I
leaves, and a transfer's check and stored bytes by effective address. -/

namespace Sys2Proof.Machine

open Claims

/-- The family `Fx`, with its low byte beside the high nibble, as the rules of spec/43_index_memory.md write it. -/
theorem hasWord_of_encodeF {i : Instr} (nn : Byte) (x : Nibble) (h : encode i = encodeXI 0xF x nn := by rfl) :
    HasWord i (0xF000 + nn.toNat + 0x100 * x.toNat) := by
  have hplace : 0x1000 * (0xF : Nibble).toNat = 0xF000 := rfl
  have hword := hasWord_of_encodeXI 0xF x nn h
  rwa [hplace, Nat.add_right_comm] at hword

/-! ### The index register -/

/-- An instruction that sets I and falls through writes no register and no byte. -/
theorem writesIndex_of_exec_setI {i : Instr} {s : State} {w : Word} {value : Nat} (h : exec i s = .next (s.setI w).fallThrough)
    (hw : w.toNat = value) : WritesIndex i s value :=
  ⟨(s.setI w).fallThrough, h, hw, pcPlus_fallThrough (s.setI w), fun _ => rfl, fun _ => rfl, rfl⟩

theorem add_byteOperand_toNat (w : Word) (b : Byte) : (w + byteOperand b).toNat = (w.toNat + b.toNat) % 65536 := by
  rw [BitVec.toNat_add, byteOperand_toNat]

/-- The address of a glyph never wraps: 5 * 255 lies far below 65536. -/
theorem glyphAddr_toNat (b : Byte) : (BitVec.ofNat 16 (Config.glyphBytes * b.toNat)).toNat = 5 * b.toNat := by
  have hb := b.isLt
  rw [BitVec.toNat_ofNat, Config.glyphBytes, Nat.mod_eq_of_lt (by omega)]

/-- Settles O29: each of the three sets I to a word whose value as a number is the one claimed. -/
theorem indexRegisterResults : Obligations.IndexRegisterResults := by
  intro s x nnn
  exact ⟨hasWord_of_encodeA 0xA nnn, hasWord_of_encodeF 0x1E x, hasWord_of_encodeF 0x29 x,
    writesIndex_of_exec_setI rfl (addrOperand_toNat nnn), writesIndex_of_exec_setI rfl (add_byteOperand_toNat ..),
    writesIndex_of_exec_setI rfl (glyphAddr_toNat _)⟩

/-! ### The check of a transfer, by the address of its last byte (R146) -/

theorem withTransfer_of_effAddr_le {s : State} {last : Nat} (done : State) (h : s.effAddr last ≤ 0xFFF) :
    s.withTransfer (last + 1) done = .next done :=
  withTransfer_inRange done (.inr (Nat.succ_le_succ h))

theorem withTransfer_of_lt_effAddr {s : State} {last : Nat} (done : State) (h : 0xFFF < s.effAddr last) :
    s.withTransfer (last + 1) done = .fault (.addressFault (max s.i.toNat 0x1000)) :=
  withTransfer_outOfRange done (Nat.succ_pos last) (Nat.succ_lt_succ h)

/-! ### Stored bytes -/

/-- Byte `k` of a store at I is read back at its effective address. -/
theorem read_store_effAddr (s : State) {bs : List Byte} {k : Nat} {b : Byte} (h : bs[k]? = some b) :
    (s.mem.store (s.effAddr 0) bs).read (s.effAddr k) = b := by
  rw [State.effAddr, State.effAddr, Nat.add_zero, Memory.read_store, if_pos (Nat.le_add_right ..), Nat.add_sub_cancel_left, h,
    Option.getD_some]

/-- A store at I whose last byte is byte `last` changes no byte below I and none above that one. -/
theorem read_store_outside_effAddr (s : State) {bs : List Byte} {last a : Nat} (hlen : bs.length = last + 1)
    (h : a < s.effAddr 0 ∨ s.effAddr last < a) : (s.mem.store (s.effAddr 0) bs).read a = s.mem.read a := by
  refine Memory.read_store_outside _ _ _ _ (h.imp_right fun habove => ?_)
  rw [hlen]
  exact habove

/-- A decimal digit fits into a byte, so a stored one is read back as that number. -/
theorem read_store_digit_toNat (s : State) {bs : List Byte} {k d : Nat} (h : bs[k]? = some (BitVec.ofNat 8 d)) (hd : d < 10) :
    ((s.mem.store (s.effAddr 0) bs).read (s.effAddr k)).toNat = d := by
  rw [read_store_effAddr s h]
  exact Nat.mod_eq_of_lt (by omega)

/-- Settles O30: the three stored bytes are digits, the hundreds one because Vx is at most 255. -/
theorem decimalStoreResult : Obligations.DecimalStoreResult := by
  intro s x
  have hhundreds : (s.reg x).toNat / 100 < 10 := by have := (s.reg x).isLt; omega
  refine ⟨hasWord_of_encodeF 0x33 x, fun hin => ?_, withTransfer_of_lt_effAddr (last := 2) _⟩
  exact ⟨_, withTransfer_of_effAddr_le _ hin, read_store_digit_toNat s rfl hhundreds,
    read_store_digit_toNat s rfl (Nat.mod_lt _ (by decide)), read_store_digit_toNat s rfl (Nat.mod_lt _ (by decide)),
    fun a ha => read_store_outside_effAddr s rfl ha, fun _ => rfl, pcPlus_fallThrough (s.setMem _), rfl⟩

/-- Settles O31: the stored bytes are V0 to Vx, and nothing but memory and PC is written. -/
theorem registerStoreResult : Obligations.RegisterStoreResult := by
  intro s x
  refine ⟨hasWord_of_encodeF 0x55 x, fun hin => ?_, withTransfer_of_lt_effAddr _⟩
  exact ⟨_, withTransfer_of_effAddr_le _ hin, read_store_regsUpTo s x,
    fun a ha => read_store_outside_effAddr s (regsUpTo_length s x) ha, fun _ => rfl, pcPlus_fallThrough (s.setMem _), rfl⟩

/-! ### Loaded registers -/

/-- Settles O32: the load writes register `k` exactly when `k` is below x + 1. -/
theorem registerLoadResult : Obligations.RegisterLoadResult := by
  intro s x
  refine ⟨hasWord_of_encodeF 0x65 x, fun hin => ?_, withTransfer_of_lt_effAddr _⟩
  refine ⟨_, withTransfer_of_effAddr_le _ hin, fun k hk => ?_, fun k hk => ?_, fun _ => rfl, pcPlus_fallThrough (s.setV _), rfl⟩
  · rw [State.fallThrough_reg, setV_loadRegs_reg, if_pos (Nat.lt_succ_of_le hk)]
    rfl
  · rw [State.fallThrough_reg, setV_loadRegs_reg, if_neg (Nat.not_lt.2 hk)]

/-- Settles O33: the store completed, so the load at the same I is in range, and it reads the bytes that the store wrote. -/
theorem storeThenLoadRestoresRegisters : Obligations.StoreThenLoadRestoresRegisters := by
  intro s t u x hstore hi hmem
  obtain ⟨rfl, hrange⟩ := eq_of_withTransfer_next hstore
  have haddr : ∀ k, u.effAddr k = s.effAddr k := fun k => congrArg (fun w : Word => w.toNat + k) hi
  have hin : u.effAddr x.toNat ≤ 0xFFF := by rw [haddr, State.effAddr]; omega
  obtain ⟨-, hcompletes, -⟩ := registerLoadResult u x
  obtain ⟨w, hload, hloaded, habove, -, -, hframe⟩ := hcompletes hin
  refine ⟨w, hload, fun k hk => ?_, habove, rfl, (congrArg State.i hframe).trans hi⟩
  rw [hloaded k hk, hmem, haddr]
  exact read_store_regsUpTo s x k hk

end Sys2Proof.Machine
end

section
/-! SUPPORT. The display instructions (spec/44_display.md): the sprite's mask in the words of the claims, and what a draw leaves. -/

namespace Sys2Proof.Machine

open Claims

/-- Settles O35: clearing is a draw of the empty screen. -/
theorem clearScreenResult : Obligations.ClearScreenResult := fun s =>
  ⟨hasWord_of_encode_toNat rfl, (s.draw Screen.clear).fallThrough, rfl, Screen.cell_clear, rfl,
    pcPlus_fallThrough (s.draw Screen.clear), fun _ => rfl, fun _ => rfl, rfl⟩

/-! ### The sprite's mask -/

/-- The mask of `drawSprite_spec`, of the operands that `Dxyn` reads, is the sprite of the claims. -/
theorem spriteLit_iff_spriteLights (s : State) (x y n : Nibble) (c : Column) (r : RowNo) :
    spriteLit s.mem (s.effAddr 0) (s.reg x) (s.reg y) n.toNat c r ↔ SpriteLights s x y n c r := by
  constructor
  · rintro ⟨j, hj, ⟨k, hk, hbit, rfl⟩, rfl⟩
    exact ⟨j, k, hj, hk, hbit, rfl, rfl⟩
  · rintro ⟨j, k, hj, hk, hbit, hc, hr⟩
    exact ⟨j, hj, ⟨k, hk, hbit, Fin.ext hc.symm⟩, Fin.ext hr.symm⟩

/-- The sprite depends on I, memory, Vx and Vy alone. -/
theorem spriteLights_congr {s u : State} {x y : Nibble} (hi : u.i = s.i) (hmem : ∀ a, u.read a = s.read a)
    (hx : u.reg x = s.reg x) (hy : u.reg y = s.reg y) (n : Nibble) (c : Column) (r : RowNo) :
    SpriteLights u x y n c r ↔ SpriteLights s x y n c r := by
  simp only [SpriteLights, State.effAddr, hi, hmem, hx, hy]

/-- The canvas of `Dxyn` is the old framebuffer exclusive-or the sprite (R152 (2)). -/
theorem sprite_screen_cell (s : State) (x y n : Nibble) (c : Column) (r : RowNo) :
    (s.sprite x y n).screen.cell c r = true ↔ Xor (s.fb.cell c r = true) (SpriteLights s x y n c r) := by
  obtain ⟨hcell, -⟩ := drawSprite_spec s.mem (s.effAddr 0) (s.reg x) (s.reg y) n.toNat s.fb n.isLt.le
  rw [State.sprite, hcell, spriteLit_iff_spriteLights, xor_iff_iff_not]

/-- `Dxyn` hits exactly when the sprite and the old framebuffer share a lit cell (R152 (2)). -/
theorem sprite_hit (s : State) (x y n : Nibble) :
    (s.sprite x y n).hit = true ↔ ∃ c r, SpriteLights s x y n c r ∧ s.fb.cell c r = true := by
  obtain ⟨-, hhit⟩ := drawSprite_spec s.mem (s.effAddr 0) (s.reg x) (s.reg y) n.toNat s.fb n.isLt.le
  simp only [State.sprite, hhit, spriteLit_iff_spriteLights]

/-! ### What a draw leaves -/

/-- The state that a completed `Dxyn` leaves. -/
def State.drawn (s : State) (x y n : Nibble) : State :=
  ((s.draw (s.sprite x y n).screen).setReg VF (flagByte (s.sprite x y n).hit)).fallThrough

theorem exec_drw (s : State) (x y n : Nibble) : exec (.drw x y n) s = s.withTransfer n.toNat (s.drawn x y n) := rfl

@[simp] theorem drawn_fb (s : State) (x y n : Nibble) : (s.drawn x y n).fb = (s.sprite x y n).screen := rfl

theorem drawn_reg_VF (s : State) (x y n : Nibble) : (s.drawn x y n).reg VF = flagByte (s.sprite x y n).hit := by
  rw [State.drawn, State.fallThrough_reg, State.setReg_reg_self]

theorem drawn_reg_of_ne_VF (s : State) (x y n : Nibble) {k : Nibble} (hk : k ≠ VF) : (s.drawn x y n).reg k = s.reg k := by
  rw [State.drawn, State.fallThrough_reg, State.setReg_reg, if_neg (Ne.symm hk), State.draw_reg]

theorem flagByte_eq_one_iff (f : Bool) : flagByte f = 1 ↔ f = true := by
  cases f <;> decide

/-- After a draw VF is the collision. -/
theorem drawn_reg_VF_eq_one_iff (s : State) (x y n : Nibble) :
    (s.drawn x y n).reg VF = 1 ↔ ∃ c r, SpriteLights s x y n c r ∧ s.fb.cell c r = true := by
  rw [drawn_reg_VF, flagByte_eq_one_iff, sprite_hit]

theorem drawn_reg_VF_eq_zero {s : State} {x y n : Nibble}
    (h : ¬ ∃ c r, SpriteLights s x y n c r ∧ s.fb.cell c r = true) : (s.drawn x y n).reg VF = 0 := by
  rw [← sprite_hit, Bool.not_eq_true] at h
  rw [drawn_reg_VF, h]
  rfl

/-- Settles O36: the framebuffer and VF are those of the canvas, and the check of the transfer is R151's. -/
theorem drawTogglesSpriteCells : Obligations.DrawTogglesSpriteCells := by
  intro s x y n
  refine ⟨hasWord_of_encodeXYN 0xD x y n, fun hin => ?_, fun hn hout => ?_⟩
  · exact ⟨s.drawn x y n, (exec_drw s x y n).trans (withTransfer_inRange _ (by omega)), sprite_screen_cell s x y n,
      (drawn_reg_VF_eq_one_iff s x y n).2, drawn_reg_VF_eq_zero, rfl, fun k hk => drawn_reg_of_ne_VF s x y n hk,
      fun _ => rfl, pcPlus_fallThrough ((s.draw _).setReg VF _), rfl⟩
  · exact (exec_drw s x y n).trans (withTransfer_outOfRange _ hn (by omega))

/-! ### The second draw -/

/-- A sprite drawn on the screen that its first draw left gives the screen before both: exclusive-or with one mask is its own
inverse. -/
theorem drawn_fb_of_fb_eq_drawn_fb {s u : State} {x y n : Nibble} (hfb : u.fb = (s.drawn x y n).fb)
    (hmask : ∀ c r, SpriteLights u x y n c r ↔ SpriteLights s x y n c r) : (u.drawn x y n).fb = s.fb := by
  refine Screen.ext_cells fun c r => ?_
  rw [Bool.eq_iff_iff, drawn_fb, sprite_screen_cell, hfb, drawn_fb, sprite_screen_cell, hmask, ← symmDiff_eq_xor,
    ← symmDiff_eq_xor, symmDiff_symmDiff_cancel_right]

/-- Settles O37: the second draw has the I and the mask of the first, so it completes and toggles the same cells. -/
theorem drawTwiceRestoresScreen : Obligations.DrawTwiceRestoresScreen := by
  intro s t u x y n hdraw hfb hi hmem hx hy
  rw [exec_drw] at hdraw ⊢
  obtain ⟨rfl, hrange⟩ := eq_of_withTransfer_next hdraw
  have hmask := spriteLights_congr hi hmem hx hy n
  refine ⟨u.drawn x y n, withTransfer_inRange _ (by rwa [hi]), drawn_fb_of_fb_eq_drawn_fb hfb hmask, ?_⟩
  simp only [drawn_reg_VF_eq_one_iff, hmask, hfb]

end Sys2Proof.Machine
end

section
/-! SUPPORT. The skips on a key and the timer transfers (spec/45_input_timers.md): the words of format XS from their match
values, a key index in range and above it, and the key array read at a byte. -/

namespace Sys2Proof.Machine

open Claims

/-- Format XS as the match value of a rule of spec/45_input_timers.md and the register in its place. -/
theorem hasWord_of_encodeXI_match {i : Instr} (op : Nibble) (nn : Byte) (x : Nibble) (h : encode i = encodeXI op x nn := by rfl) :
    HasWord i (0x1000 * op.toNat + nn.toNat + 0x100 * x.toNat) := by
  rw [Nat.add_right_comm]
  exact hasWord_of_encodeXI op x nn h

/-! ### Skips on a key (R160, R161) -/

theorem withKeyIndex_of_le {a : Byte} (done : State) (h : a.toNat ≤ 15) : State.withKeyIndex a done = .next done :=
  if_neg (Nat.not_lt.2 h)

theorem withKeyIndex_of_lt {a : Byte} (done : State) (h : 15 < a.toNat) :
    State.withKeyIndex a done = .fault (.keyIndexFault a.toNat) :=
  if_pos h

/-- A byte that is at most 15 is the same number as a key index. -/
theorem keyOperand_toNat {a : Byte} (h : a.toNat ≤ 15) : (keyOperand a).toNat = a.toNat := by
  rw [keyOperand, BitVec.toNat_setWidth, Nat.mod_eq_of_lt (by omega)]

/-- The key that the model tests is the element of the key array at the byte itself. -/
theorem keys_getElem?_eq_key {s : State} {a : Byte} (h : a.toNat ≤ 15) : s.keys[a.toNat]? = some (s.key (keyOperand a)) := by
  rw [← keyOperand_toNat h]
  exact Vector.getElem?_eq_getElem _

/-- A skip on the key in Vx, within the range of key indices, is a skip. -/
theorem writesPc_of_exec_keySkip {i : Instr} {s : State} {a : Byte} {c : Bool} {p : Prop} [Decidable p]
    (h : exec i s = State.withKeyIndex a (s.skipIf c)) (ha : a.toNat ≤ 15) (hc : c = true ↔ p) :
    WritesPc i s ((s.pc.toNat + if p then 4 else 2) % 65536) :=
  writesPc_of_exec_skipIf (h.trans (withKeyIndex_of_le _ ha)) hc

/-- Settles O39: up to 15 the key of the array decides each skip, and above 15 the index's check faults. -/
theorem keySkipResults : Obligations.KeySkipResults := by
  intro s x
  refine ⟨hasWord_of_encodeXI_match 0xE 0x9E x, hasWord_of_encodeXI_match 0xE 0xA1 x, fun ha => ⟨?_, ?_⟩,
    fun ha => ⟨withKeyIndex_of_lt _ ha, withKeyIndex_of_lt _ ha⟩⟩
  · refine writesPc_of_exec_keySkip rfl ha ?_
    rw [keys_getElem?_eq_key ha, Option.some_inj]
  · refine writesPc_of_exec_keySkip rfl ha ?_
    rw [keys_getElem?_eq_key ha, Option.some_inj, Bool.not_eq_true']

/-! ### Timer transfers (R162, R164, R165) -/

/-- Settles O41: `Fx07` is a result without a flag; each of the other two sets one timer to Vx and falls through. -/
theorem timerRegisterResults : Obligations.TimerRegisterResults := by
  intro s x
  exact ⟨hasWord_of_encodeF 0x07 x, hasWord_of_encodeF 0x15 x, hasWord_of_encodeF 0x18 x, writesReg_of_exec_result rfl rfl,
    ⟨(s.setDt (s.reg x)).fallThrough, rfl, rfl, pcPlus_fallThrough (s.setDt _), fun _ => rfl, fun _ => rfl, rfl⟩,
    ⟨(s.setSt (s.reg x)).fallThrough, rfl, rfl, pcPlus_fallThrough (s.setSt _), fun _ => rfl, fun _ => rfl, rfl⟩⟩

end Sys2Proof.Machine
end

section
/-! SUPPORT. The faults of a step against table R171 (spec/60_exceptions.md): an instruction faults exactly as its operands do, and
phases (a) and (b) touch no operand. -/

namespace Sys2Proof.Machine

open Claims

/-- An instruction faults exactly with the fault that table R171 gives its operands. -/
theorem exec_eq_fault_iff {i : Instr} {s : State} {f : Fault} : exec i s = .fault f ↔ operandFault s i = some f := by
  obtain ⟨t, hexec, -⟩ := exec_eq_elim_operandFault i s
  rw [hexec]
  cases operandFault s i with
  | none => exact ⟨nofun, nofun⟩
  | some g => exact ⟨fun h => congrArg some (Host.Outcome.fault.inj h), fun h => congrArg Host.Outcome.fault (Option.some.inj h)⟩

/-- The operands that table R171 checks are I and registers, which phases (a) and (b) leave alone (R82, R83). -/
@[simp] theorem operandFault_beginStep (s : State) (i : Instr) : operandFault s.beginStep i = operandFault s i := rfl

/-- A step that runs an instruction faults exactly as the operands do before the step. -/
theorem step_eq_fault_iff_of_at {s : State} {i : Instr} {f : Fault} (hat : At s i) :
    step s = .fault f ↔ operandFault s i = some f := by
  rw [step_of_at hat, exec_eq_fault_iff, operandFault_beginStep]

/-- Settles O9: a running machine's step faults in its fetch or in its instruction, and nowhere else since an unknown word completes. -/
theorem stepFaultsExactlyAsTabled : Obligations.StepFaultsExactlyAsTabled := by
  intro s f hrun
  constructor
  · intro hfault
    obtain ⟨hstopped, -⟩ | ⟨-, hpc, hstep⟩ | ⟨-, hpc, i, hdec, -⟩ | ⟨-, -, -, hstep⟩ := step_cases s
    · exact absurd hrun hstopped
    · exact .inl ⟨hpc, Host.Outcome.fault.inj (hfault.symm.trans hstep)⟩
    · have hat : At s i := ⟨hrun, hpc, hdec⟩
      exact .inr ⟨i, hat, (step_eq_fault_iff_of_at hat).1 hfault⟩
    · exact nomatch hfault.symm.trans hstep
  · rintro (⟨hpc, rfl⟩ | ⟨i, hat, hoperands⟩)
    · exact step_of_fetch_outside hrun hpc
    · exact (step_eq_fault_iff_of_at hat).2 hoperands

end Sys2Proof.Machine
end

section
/-! SUPPORT. The host's load (spec/70_reset_and_hazards.md R202, R203): enabled while running, an image that fits and one that does
not. -/

namespace Sys2Proof.Machine

theorem imageWellFormed_iff (image : List Byte) : imageWellFormed image = true ↔ image.length ≤ 3584 := decide_eq_true_iff

theorem apply_load_of_running {s : State} (hrun : s.status = .running) (image : List Byte) :
    s.apply (.load image) = some (s.load image) := if_pos hrun

theorem load_of_fits {image : List Byte} (hfits : image.length ≤ 3584) (s : State) :
    s.load image = s.setMem (s.mem.store 0x200 image) := if_pos ((imageWellFormed_iff image).2 hfits)

theorem load_of_too_long {image : List Byte} (hlong : 3584 < image.length) (s : State) :
    s.load image = { s with status := .faulted .loadError image.length } :=
  if_neg fun hfits => Nat.not_le.2 hlong ((imageWellFormed_iff image).1 hfits)

/-- Byte `k` of a store is read back at `base + k`. -/
theorem Memory.read_store_getElem (m : Memory) (base : Nat) {bs : List Byte} {k : Nat} (hk : k < bs.length) :
    (m.store base bs).read (base + k) = bs[k] := by
  rw [Memory.read_store, if_pos (Nat.le_add_right ..), Nat.add_sub_cancel_left, List.getElem?_eq_getElem hk, Option.getD_some]

/-- Settles O17: the load is a store of the image at 0x200. -/
theorem loadOverlaysImage : Obligations.LoadOverlaysImage := by
  intro s image hrun hfits
  refine ⟨s.setMem (s.mem.store 0x200 image), ?_, fun k hk => Memory.read_store_getElem s.mem 0x200 hk,
    fun a ha => Memory.read_store_outside s.mem 0x200 a image ha, rfl⟩
  rw [apply_load_of_running hrun, load_of_fits hfits]

/-- Settles O18: the image does not fit, or the load is not enabled. -/
theorem loadTooLongIsRefused : Obligations.LoadTooLongIsRefused := by
  intro s image
  refine ⟨fun hrun hlong => ?_, fun hstopped => if_neg hstopped⟩
  rw [apply_load_of_running hrun, load_of_too_long hlong]

end Sys2Proof.Machine
end

section
/-! SUPPORT. A machine at a jump to itself (spec/70_reset_and_hazards.md R212): each of its steps is phases (a) and (b) and nothing
more, so a run of `k` steps is `beginStep` iterated. -/

namespace Sys2Proof.Machine

open Claims

/-! ### One step -/

/-- A word below 0x1000 is the operand of its own low twelve bits. -/
theorem addrOperand_fieldNNN {w : Word} (hw : w.toNat ≤ 0xFFF) : addrOperand (fieldNNN w) = w := by
  refine BitVec.eq_of_toNat_eq ?_
  rw [addrOperand_toNat, fieldNNN, BitVec.extractLsb'_toNat, Nat.shiftRight_zero]
  exact Nat.mod_eq_of_lt (Nat.lt_succ_of_le hw)

/-- The two bytes of a jump, high byte first, put together (spec/30_encoding.md table R62). -/
theorem bigEndian_jump_bytes (w : Word) :
    bigEndian (0x10 ||| (w.extractLsb' 8 4).zeroExtend 8) (w.extractLsb' 0 8) = encodeA 0x1 (fieldNNN w) := by
  refine BitVec.eq_of_getLsbD_eq fun i hi => ?_
  interval_cases i <;> simp [bigEndian, encodeA, fieldNNN]

/-- The word at PC of a self-jump is the jump to PC, which lies inside memory. -/
theorem selfJump_word {s : State} (hself : s.selfJump = true) :
    s.pc.toNat ≤ 0xFFE ∧ s.wordAtPc = encode (.jp (fieldNNN s.pc)) := by
  simp only [State.selfJump, Bool.and_eq_true, decide_eq_true_eq] at hself
  obtain ⟨⟨hpc, hhigh⟩, hlow⟩ := hself
  refine ⟨hpc, ?_⟩
  rw [State.wordAtPc, hhigh, hlow, bigEndian_jump_bytes]
  rfl

theorem at_jp_of_selfJump {s : State} (hrun : s.status = .running) (hself : s.selfJump = true) :
    At s (.jp (fieldNNN s.pc)) := by
  obtain ⟨hpc, hword⟩ := selfJump_word hself
  exact ⟨hrun, hpc, decode_eq_instr_iff.2 hword.symm⟩

/-- A self-jump leaves PC as it was, so the step has only its phases (a) and (b). -/
theorem step_of_selfJump {s : State} (hrun : s.status = .running) (hself : s.selfJump = true) : step s = .next s.beginStep := by
  obtain ⟨hpc, -⟩ := selfJump_word hself
  calc step s
    _ = .next (s.beginStep.jump (addrOperand (fieldNNN s.pc))) := step_of_at (at_jp_of_selfJump hrun hself)
    _ = .next (s.beginStep.jump s.pc) := by rw [addrOperand_fieldNNN (by omega)]
    _ = .next s.beginStep := rfl

/-! ### Several steps -/

/-- Phases (a) and (b) leave STATUS, PC and memory alone, so the machine is at the same self-jump again. -/
theorem run_of_selfJump (k : Nat) : ∀ s : State, s.status = .running → s.selfJump = true →
    core.run k s = .next (State.beginStep^[k] s) := by
  induction k with
  | zero => exact fun _ _ _ => rfl
  | succ k ih =>
    intro s hrun hself
    exact (run_succ_of_step (M := core) k (step_of_selfJump hrun hself)).trans (ih s.beginStep hrun hself)

section Iterate

variable (k : Nat) (s : State)

theorem iterate_beginStep_dt : (State.beginStep^[k] s).dt.toNat = s.dt.toNat - k := by
  induction k with
  | zero => rfl
  | succ k ih => rw [Function.iterate_succ_apply', State.beginStep_dt, countDown_toNat, ih, Nat.sub_sub]

theorem iterate_beginStep_st : (State.beginStep^[k] s).st.toNat = s.st.toNat - k := by
  induction k with
  | zero => rfl
  | succ k ih => rw [Function.iterate_succ_apply', State.beginStep_st, countDown_toNat, ih, Nat.sub_sub]

theorem iterate_beginStep_cleared (hk : 0 < k) :
    (State.beginStep^[k] s).drawReady = false ∧ (State.beginStep^[k] s).report = none := by
  obtain ⟨j, rfl⟩ := Nat.exists_eq_succ_of_ne_zero hk.ne'
  rw [Function.iterate_succ_apply']
  exact ⟨rfl, rfl⟩

theorem iterate_beginStep_frame :
    State.beginStep^[k] s = { s with
      dt := (State.beginStep^[k] s).dt, st := (State.beginStep^[k] s).st,
      drawReady := (State.beginStep^[k] s).drawReady, report := (State.beginStep^[k] s).report } := by
  induction k with
  | zero => rfl
  | succ k ih =>
    rw [Function.iterate_succ_apply']
    exact congrArg State.beginStep ih

end Iterate

/-- Settles O52: the state after `k` steps is `beginStep` iterated `k` times. -/
theorem selfJumpStaysForEver : Obligations.SelfJumpStaysForEver := fun k s hrun hself =>
  ⟨State.beginStep^[k] s, run_of_selfJump k s hrun hself, iterate_beginStep_dt k s, iterate_beginStep_st k s,
    iterate_beginStep_cleared k s, iterate_beginStep_frame k s⟩

end Sys2Proof.Machine
end
